-- ==== Sys2Proof/Word.lean ====
section
/-! DEFINITION. The widths of the block: bytes of the wire, 16-bit registers and 32-bit host words (00_scope.md R9, R10). -/

namespace Sys2Proof

/-- One byte of a frame (R10: "a byte is 8 bits"). -/
abbrev Byte := BitVec 8

/-- One Modbus holding register, or a CRC value: 16 bits. -/
abbrev Half := BitVec 16

/-- One host register or host data word: 32 bits (R9). -/
abbrev Word := BitVec 32

end Sys2Proof
end

