-- ==== Sys2Proof/Machine/Crc.lean ====
section
/-! DEFINITION. Byte order helpers and the CRC-16/Modbus function (20_memory.md R60; 40_frame_codec.md R120). -/

namespace Sys2Proof.Machine

/-- The high byte of a 16-bit value, `v[15:8]`. -/
def hiByte (v : Half) : Byte := v.extractLsb' 8 8

/-- The low byte of a 16-bit value, `v[7:0]`. -/
def loByte (v : Half) : Byte := v.extractLsb' 0 8

/-- `hi ++ lo`: two bytes joined with the first in the more significant place (R98). -/
def joinBytes (hi lo : Byte) : Half := hi ++ lo

/-- One bit step of R120: shift right, and XOR with 0xA001 when the bit shifted out is 1. -/
def crcBit (c : Half) : Half :=
  if c.getLsbD 0 then (c >>> 1) ^^^ 0xA001#16 else c >>> 1

/-- `n` bit steps of R120. -/
def crcBits : Nat → Half → Half
  | 0, c => c
  | n + 1, c => crcBits n (crcBit c)

/-- One byte of R120: XOR the byte into the low half, then eight bit steps. -/
def crcByte (c : Half) (b : Byte) : Half := crcBits 8 (c ^^^ b.zeroExtend 16)

/-- `crc16(s)` of R120: seed 0xFFFF, the bytes in order, no final XOR. -/
def crc16 (s : List Byte) : Half := s.foldl crcByte 0xFFFF#16

/-- An entry of the 256-entry table of a table-driven CRC (R120 lets an implementation use one). -/
def crcTable (i : Byte) : Half := crcBits 8 (i.zeroExtend 16)

/-- One byte of the table-driven form: the table entry of the low byte, XOR the high byte shifted down. -/
def crcByteByTable (c : Half) (b : Byte) : Half := (c >>> 8) ^^^ crcTable (loByte c ^^^ b)

/-- The table-driven CRC-16/Modbus. The machine uses `crc16`; R120 asks that both agree. -/
def crc16ByTable (s : List Byte) : Half := s.foldl crcByteByTable 0xFFFF#16

/-- Bytes 0 to 5 of the request frame, those its CRC covers (R95). -/
def requestBody (slave : Byte) (start count : Half) : List Byte :=
  [slave, 0x03#8, hiByte start, loByte start, hiByte count, loByte count]

end Sys2Proof.Machine
end

