-- ==== Sys2Proof/Syntax.lean ====
section
/-! DEFINITION. The instructions of the block: one constructor per row of spec/opcode_table.json, and the two
encoded forms an instruction has (30_encoding.md R91, R95 to R97). -/

namespace Sys2Proof

/-- The instructions. The first eight are the host's command words (R94). The last three are the wire frames
(R95 to R97), whose operands are the fields of the frame. -/
inductive Instr where
  /-- OPEN, command word 1 (R161). -/
  | openPort
  /-- CLOSE, command word 2 (R163). -/
  | closePort
  /-- BUILD, command word 3 (R122). -/
  | build
  /-- EXCHANGE, command word 4 (R164). -/
  | exchange
  /-- PARSE, command word 5 (R124). -/
  | parse
  /-- DECODE, command word 6 (R210). -/
  | decode
  /-- CRC, command word 7 (R130). -/
  | crc
  /-- XFER, command word 8 (R230). -/
  | xfer
  /-- REQ_READ_HOLDING, the 8-byte request frame (R95). -/
  | reqReadHolding (slave : Byte) (start : Half) (count : Half) (check : Half)
  /-- RESP_READ_HOLDING, the normal response frame of 5 + byteCount bytes (R96); `func` is the low 7 bits of byte 1. -/
  | respReadHolding (slave : Byte) (func : BitVec 7) (byteCount : Byte) (payload : List Byte) (check : Half)
  /-- RESP_EXCEPTION, the 5-byte exception frame (R97); `func` is the low 7 bits of byte 1. -/
  | respException (slave : Byte) (func : BitVec 7) (code : Byte) (check : Half)
deriving DecidableEq, Repr

/-- Which way a frame goes on the half-duplex line (R95: the request; R96, R97: the responses). The bytes alone do not
tell: the 8 bytes of a request may also be a response with byte count 3 (log 13). -/
inductive FrameKind where
  | request
  | response
deriving DecidableEq, Repr

/-- An encoded instruction: a word the host writes to CMD (R91, R105), or the bytes of a frame in wire order. -/
inductive Code where
  | command (w : Word)
  | frame (kind : FrameKind) (bytes : List Byte)
deriving DecidableEq, Repr

end Sys2Proof
end

