-- ==== Sys2Proof/WellFormed.lean ====
section
/-! DEFINITION. Which instruction terms the spec's encodings admit (30_encoding.md R95, R96, R101). -/

namespace Sys2Proof

/-- The slave addresses of R101: "Slave address 0 and addresses 248 to 255 are never sent". -/
def slaveInRange (a : Byte) : Bool := decide (1 ≤ a.toNat) && decide (a.toNat ≤ 247)

/-- The lengths that a frame's own fields fix: the payload of a response has `byteCount` bytes (R96). -/
def Instr.lengthsAgree : Instr → Bool
  | .respReadHolding _ _ byteCount payload _ => payload.length == byteCount.toNat
  | .openPort | .closePort | .build | .exchange | .parse | .decode | .crc | .xfer => true
  | .reqReadHolding _ _ _ _ => true
  | .respException _ _ _ _ => true

/-- What R95 says of a request frame beyond its layout: the address is in range and the trailer is the CRC of
bytes 0 to 5. A response may hold any address and any trailer: PARSE checks them (R124). -/
def Instr.requestSound : Instr → Bool
  | .reqReadHolding slave start count check =>
      slaveInRange slave && (check == Machine.crc16 (Machine.requestBody slave start count))
  | .openPort | .closePort | .build | .exchange | .parse | .decode | .crc | .xfer => true
  | .respReadHolding _ _ _ _ _ => true
  | .respException _ _ _ _ => true

/-- A well-formed instruction. -/
def Instr.wellFormed (i : Instr) : Bool := i.lengthsAgree && i.requestSound

end Sys2Proof
end

