-- ==== Sys2Proof/Decode.lean ====
section
/-! DEFINITION. The decoder, the encoder, and the opcode table's numbering of an instruction's bits
(30_encoding.md R90 to R97, R105). -/

namespace Sys2Proof

/-- Why bits are no instruction. -/
inductive DecodeError where
  /-- OP is 0 or 9 to 15 (R93). -/
  | illegalOpcode (op : BitVec 4)
  /-- Bits 31:4 of a command word are not all 0 (R93). -/
  | reservedBits
  /-- A request frame is not 8 bytes long (R95). -/
  | requestLength
  /-- Byte 1 of a request frame is not 0x03 (R95). -/
  | requestFunction
  /-- A response has fewer than the 5 bytes of its header and trailer (R96, R97). -/
  | responseTooShort
  /-- A response is not as long as its header says (R96, R97). -/
  | responseLength
deriving DecidableEq, Repr

/-- The OP field, bits 3:0 of a command word (R91). -/
def opField (w : Word) : BitVec 4 := w.extractLsb' 0 4

/-- The RSV field, bits 31:4 of a command word (R91). -/
def rsvField (w : Word) : BitVec 28 := w.extractLsb' 4 28

/-- The opcode map of R94 on the OP field. -/
def opcodeOf (op : BitVec 4) : Except DecodeError Instr :=
  if op = 1#4 then .ok .openPort
  else if op = 2#4 then .ok .closePort
  else if op = 3#4 then .ok .build
  else if op = 4#4 then .ok .exchange
  else if op = 5#4 then .ok .parse
  else if op = 6#4 then .ok .decode
  else if op = 7#4 then .ok .crc
  else if op = 8#4 then .ok .xfer
  else .error (.illegalOpcode op)

/-- Decoding a word written to CMD: exactly the words 1 to 8 are legal (R93). -/
def decodeCommand (w : Word) : Except DecodeError Instr :=
  if rsvField w = 0#28 then opcodeOf (opField w) else .error .reservedBits

/-- Decoding the bytes of a request frame (R95): the count and start are big-endian, the CRC little-endian. -/
def decodeRequest : List Byte → Except DecodeError Instr
  | [a, f, s1, s0, n1, n0, c0, c1] =>
      if f = 0x03#8 then
        .ok (.reqReadHolding a (Machine.joinBytes s1 s0) (Machine.joinBytes n1 n0) (Machine.joinBytes c1 c0))
      else .error .requestFunction
  | _ => .error .requestLength

/-- The low 7 bits of a function byte. -/
def funcLow (f : Byte) : BitVec 7 := f.extractLsb' 0 7

/-- Decoding the bytes of a response: bit 7 of byte 1 tells an exception frame from a normal one (R99). -/
def decodeResponse : List Byte → Except DecodeError Instr
  | a :: f :: b :: rest =>
      if f.getLsbD 7 then
        match rest with
        | [c0, c1] => .ok (.respException a (funcLow f) b (Machine.joinBytes c1 c0))
        | _ => .error .responseLength
      else
        match rest.drop b.toNat with
        | [c0, c1] => .ok (.respReadHolding a (funcLow f) b (rest.take b.toNat) (Machine.joinBytes c1 c0))
        | _ => .error .responseLength
  | _ => .error .responseTooShort

/-- The decoder, total on every code. -/
def decode : Code → Except DecodeError Instr
  | .command w => decodeCommand w
  | .frame .request bytes => decodeRequest bytes
  | .frame .response bytes => decodeResponse bytes

/-- The bytes of a request frame in wire order (R95). -/
def requestFrame (slave : Byte) (start count check : Half) : List Byte :=
  Machine.requestBody slave start count ++ [Machine.loByte check, Machine.hiByte check]

/-- The bytes of a normal response frame in wire order (R96): bit 7 of byte 1 is 0. -/
def responseFrame (slave : Byte) (func : BitVec 7) (byteCount : Byte) (payload : List Byte) (check : Half) : List Byte :=
  slave :: (0#1 ++ func) :: byteCount :: (payload ++ [Machine.loByte check, Machine.hiByte check])

/-- The bytes of an exception frame in wire order (R97): bit 7 of byte 1 is 1. -/
def exceptionFrame (slave : Byte) (func : BitVec 7) (code : Byte) (check : Half) : List Byte :=
  [slave, 1#1 ++ func, code, Machine.loByte check, Machine.hiByte check]

/-- The encoder: the word written to CMD (R94), or the bytes of the frame (R95 to R97). -/
def encode : Instr → Code
  | .openPort => .command 0x00000001#32
  | .closePort => .command 0x00000002#32
  | .build => .command 0x00000003#32
  | .exchange => .command 0x00000004#32
  | .parse => .command 0x00000005#32
  | .decode => .command 0x00000006#32
  | .crc => .command 0x00000007#32
  | .xfer => .command 0x00000008#32
  | .reqReadHolding slave start count check => .frame .request (requestFrame slave start count check)
  | .respReadHolding slave func byteCount payload check =>
      .frame .response (responseFrame slave func byteCount payload check)
  | .respException slave func code check => .frame .response (exceptionFrame slave func code check)

/-- The `n` bytes of a number, the most significant first: the opcode table writes a frame as one number whose first
wire byte is the most significant ("byte 0 first, each byte written MSB first", log 13). -/
def bytesOfNat : Nat → Nat → List Byte
  | 0, _ => []
  | n + 1, w => BitVec.ofNat 8 (w >>> (8 * n)) :: bytesOfNat n w

/-- The length of a response by its first three bytes (R100): 5, or 5 + byte 2. -/
def responseLength : List Byte → Nat
  | _ :: f :: b :: _ => if f.getLsbD 7 then 5 else 5 + b.toNat
  | _ => 5

/-- A response given by its first bytes, with every byte the table does not number equal to 0. -/
def padResponse (bytes : List Byte) : List Byte :=
  bytes ++ List.replicate (responseLength bytes - bytes.length) 0#8

/-- The code whose bits are `w`, numbered as the opcode table numbers them: 32 bits are a command word, 64 a request
frame, 24 (the header) or 40 a response. No other width stands in the table. -/
def tableCode (nbits w : Nat) : Option Code :=
  if nbits = 32 then some (.command (BitVec.ofNat 32 w))
  else if nbits = 64 then some (.frame .request (bytesOfNat 8 w))
  else if nbits = 24 then some (.frame .response (padResponse (bytesOfNat 3 w)))
  else if nbits = 40 then some (.frame .response (padResponse (bytesOfNat 5 w)))
  else none

/-- The instruction the decoder reads from the bits `w` of an opcode-table row of `nbits` bits. -/
def decodeTableWord (nbits w : Nat) : Option Instr :=
  match tableCode nbits w with
  | some c => (decode c).toOption
  | none => none

end Sys2Proof
end

