-- ==== Sys2Proof/Config.lean ====
section
/-! DEFINITION. The parameters of the block and the values the spec leaves open (00_scope.md R7, R8;
93_implementation_defined.md I1 to I5). An `opaque` constant has no value any proof can see. -/

namespace Sys2Proof.Config

/-- The tick rate, less one: TICK_HZ is an open parameter, an integer of at least 1 (R8, I5).
The range keeps T_RESP_TICKS within 1 to 2^32 - 1. -/
opaque tickHzLessOne : Fin 4294967295

/-- `TICK_HZ`, the rate of the tick input in ticks per second (R8). -/
def tickHz : Nat := tickHzLessOne.val + 1

/-- The response timeout in seconds (R7: "response_timeout=1s"). -/
def responseSeconds : Nat := 1

/-- `T_RESP_TICKS` = TICK_HZ × 1 (R8), the value TIMEOUT_TICKS shows (R39). -/
def tRespTicks : Word := BitVec.ofNat 32 (tickHz * responseSeconds)

/-- The level of the PHY's `phy_present` input at one OPEN, a draw (R8, I4): the argument counts draws. -/
opaque phyPresent : Nat → Bool

/-- What a buffer byte that nothing has written reads as, a draw at each read (R51, I1 to I3): the first argument
counts draws, the second is the byte's offset in the window. -/
opaque freeByte : Nat → Nat → Byte

/-- The fixed line parameters of LINECFG (R36): baud rate, data bits, parity (2 = even), stop bits. -/
def baud : BitVec 20 := 19200#20
/-- Data bits per character (R36). -/
def dataBits : BitVec 4 := 8#4
/-- Parity code, 2 = even (R36). -/
def parity : BitVec 2 := 2#2
/-- Stop bits per character (R36). -/
def stopBits : BitVec 2 := 1#2

/-- LINECFG, the read-only constant of R36, put together from its fields. -/
def lineCfg : Word := 0#4 ++ stopBits ++ parity ++ dataBits ++ baud

end Sys2Proof.Config
end

