-- ==== Sys2Proof/Machine/State.lean ====
section
/-! DEFINITION. The state of the block, the events that drive it, the reasons a step stops, and the state after reset
(10_state.md; 00_scope.md R13, R16; 70_reset_and_hazards.md R280). -/

namespace Sys2Proof.Machine

/-- The sequencer's control state (R21). The value 3 is never held, so the type has no name for it. -/
inductive Phase where
  /-- No command running; the block takes commands. -/
  | idle
  /-- An EXCHANGE or XFER is sending TXBUF to the PHY. -/
  | tx
  /-- An EXCHANGE or XFER is assembling a response in RXBUF. -/
  | rx
deriving DecidableEq, Repr

/-- The host-visible registers and buffer entries of the map of R23. -/
inductive Reg where
  | cmd | status | error | slaveAddr | startReg | regCount | lineCfg | timeoutTicks | timer
  | txLen | rxLen | crcResult | respHdr | regN | floatResult
  | txBuf (i : Fin 8)
  | regVal (i : Fin 127)
  | rxBuf (i : Fin 260)
deriving DecidableEq, Repr

/-- One input event (R13). Offsets are the 12 bits of `bus_addr` and sizes the 3 bits of `bus_size` (R55). -/
inductive Event where
  | hostWrite (offset : BitVec 12) (size : BitVec 3) (value : Word)
  | hostRead (offset : BitVec 12) (size : BitVec 3)
  | txAccept
  | txError
  | rxByte (b : Byte) (err : Bool)
  | tick
  | reset
deriving DecidableEq, Repr

/-- What the PHY's transmit side may say in one clock; it never says both (R262). -/
inductive TxSignal where
  | accept
  | error
deriving DecidableEq, Repr

/-- A host access of one clock. -/
inductive HostAccess where
  | write (offset : BitVec 12) (size : BitVec 3) (value : Word)
  | read (offset : BitVec 12) (size : BitVec 3)
deriving DecidableEq, Repr

/-- The input events that arrive in one clock of a hardware realization (R262). -/
structure Clock where
  rst  : Bool
  tx   : Option TxSignal
  rx   : Option (Byte × Bool)
  tick : Bool
  host : Option HostAccess
deriving DecidableEq, Repr

/-- One item of the input script: an event, the events of one clock (R262, log 4), or a whole frame crossing the PHY
interface with no other event between its bytes (R104 `ENV: RX b0 b1 …` and `TXACK×k`, log 2). A clock or a frame stands for
its events, and each of them takes a step of its own (R13). `phyPresent` is no event: it is the program line that announces
the level of the pin at the next OPEN (R104, log 5). -/
inductive Input where
  | event (e : Event)
  | clock (c : Clock)
  | frame (kind : FrameKind) (bytes : List Byte)
  | phyPresent (level : Bool)
deriving DecidableEq, Repr

/-- The answer to a host access: `bus_err` and `bus_rdata` (R55, R62). -/
structure BusResponse where
  err   : Bool
  rdata : Word
deriving DecidableEq, Repr

/-- The storage of TXBUF, REGVAL and RXBUF: the bytes something has written, by their offset in the window, offsets
strictly rising. An offset not listed has not been written (R51). -/
abbrev Memory := List Host.Cell

/-- The state of the block. STATUS.BUSY, STATUS.PHASE and `xfer` are derived (R22, R25, R26); LINECFG is a constant of
Config (R36); CMD has no storage (R24). -/
structure State where
  /-- The sequencer's control state (R21). -/
  phase : Phase
  /-- `tx_idx`, the index of the next TXBUF byte to offer, 0..8 (R22). -/
  txIdx : Nat
  /-- STATUS.OPEN, the session flag (R27). -/
  opened : Bool
  /-- STATUS.DONE (R28). -/
  done : Bool
  /-- STATUS.ERR (R29). -/
  err : Bool
  /-- STATUS.CMD_REJ, sticky (R30). -/
  cmdRej : Bool
  /-- STATUS.LAST_OP (R33). -/
  lastOp : BitVec 4
  /-- ERROR.CODE (R34). -/
  errCode : Byte
  /-- ERROR.EXC_CODE (R34). -/
  excCode : Byte
  /-- SLAVE_ADDR (R35). -/
  slaveAddr : Byte
  /-- START_REG (R37). -/
  startReg : Half
  /-- REG_COUNT (R38). -/
  regCount : Half
  /-- TIMEOUT_TICKS, the constant T_RESP_TICKS (R39); no event writes it (log 8). -/
  timeoutTicks : Word
  /-- TIMER (R40). -/
  timer : Word
  /-- TX_LEN (R41). -/
  txLen : BitVec 4
  /-- RX_LEN (R42). -/
  rxLen : BitVec 9
  /-- CRC_RESULT (R43). -/
  crcResult : Half
  /-- RESP_HDR, its 24 named bits (R44). -/
  respHdr : BitVec 24
  /-- REG_N (R46). -/
  regN : Byte
  /-- FLOAT_RESULT (R47). -/
  floatResult : Word
  /-- TXBUF, REGVAL and RXBUF (R48 to R50). -/
  mem : Memory
  /-- `bus_err` and `bus_rdata`, the answer to the last host access (R55, log 9). -/
  bus : BusResponse
  /-- The model's own: the input items still to come (log 1). -/
  input : List Input
  /-- The model's own: the level of `phy_present` announced for the next OPEN, if any (R104, log 5). -/
  phyLevel : Option Bool
  /-- The model's own: the counter that the free values are applied to (log 6). -/
  draws : Nat
  /-- The model's own: the bytes the PHY has taken, oldest first (R19, log 10). -/
  wireOut : List Byte
deriving DecidableEq, Repr

/-- Why the machine stops with a fault. Both are SAFE: the hardware, by R45 and R165, never does either, and the model
stops rather than invent an outcome. Neither happens from reset (log 12). -/
inductive Fault where
  /-- Raised by PARSE, CRC and the RX assembler: a rule would use RXBUF entry `index`, which does not exist (R45). -/
  | noRxBufEntry (index : Nat)
  /-- Raised by TxAccept in the TX phase: the PHY takes a byte while none is on offer (R55 `tx_valid`). -/
  | noByteOnOffer
deriving DecidableEq, Repr

/-- Why a step is refused. -/
inductive Refusal where
  /-- Raised by an arm of `exec` whose instruction has no meaning yet. SAFE: nothing is claimed of it. -/
  | notModelled (mnemonic : String)
deriving DecidableEq, Repr

/-- The outcome of a step of the block. -/
abbrev Result := Host.Outcome State Fault Refusal

/-- The machine right after reset at power-up (R280): no buffer entry written, and no input yet. -/
def State.reset : State where
  phase := .idle
  txIdx := 0
  opened := false
  done := false
  err := false
  cmdRej := false
  lastOp := 0#4
  errCode := 0#8
  excCode := 0#8
  slaveAddr := 0#8
  startReg := 0#16
  regCount := 2#16
  timeoutTicks := Config.tRespTicks
  timer := 0#32
  txLen := 0#4
  rxLen := 0#9
  crcResult := 0#16
  respHdr := 0#24
  regN := 0#8
  floatResult := 0#32
  mem := []
  bus := ⟨false, 0#32⟩
  input := []
  phyLevel := none
  draws := 0
  wireOut := []

end Sys2Proof.Machine
end

