-- ==== Sys2Proof/Machine/Flags.lean ====
section
/-! DEFINITION. The flags and status words of the block: STATUS, ERROR, and the error codes
(10_state.md R21 to R34; 60_exceptions.md R250). -/

namespace Sys2Proof.Machine

/-- STATUS.BUSY: 1 exactly when `phase ≠ IDLE` (R26). -/
def busy (s : State) : Bool := decide (s.phase ≠ .idle)

/-- The 2-bit value of `phase` (R21). -/
def phaseBits : Phase → BitVec 2
  | .idle => 0#2
  | .tx => 1#2
  | .rx => 2#2

/-- The derived Boolean `xfer` of R22: the last accepted command is XFER. -/
def isXfer (s : State) : Bool := decide (s.lastOp = 8#4)

/-- One bit from a flag. -/
def flagBit (b : Bool) : BitVec 1 := BitVec.ofBool b

/-- The STATUS word as the host reads it (R25); reserved bits are 0 (R57). -/
def statusWord (s : State) : Word :=
  0#18 ++ phaseBits s.phase ++ s.lastOp ++ 0#3 ++ flagBit s.cmdRej ++ flagBit s.err ++ flagBit s.done
    ++ flagBit s.opened ++ flagBit (busy s)

/-- The ERROR word as the host reads it (R34). -/
def errorWord (s : State) : Word := 0#16 ++ s.excCode ++ s.errCode

/-- The errors a command can end with (R250). EXCEPTION_RESPONSE carries the exception code byte. -/
inductive ErrorCode where
  | portUnavailable
  | timeout
  | ioError
  | notOpen
  | crcMismatch
  | addressMismatch
  | exceptionResponse (code : Byte)
  | byteCountMismatch
  | frameTooShort
  | wrongRegisterCount
  | invalidSlaveAddress
  | illegalCommand
deriving DecidableEq, Repr

/-- The number of an error in ERROR.CODE (R250). -/
def codeNumber : ErrorCode → Byte
  | .portUnavailable => 0x01#8
  | .timeout => 0x02#8
  | .ioError => 0x03#8
  | .notOpen => 0x04#8
  | .crcMismatch => 0x10#8
  | .addressMismatch => 0x11#8
  | .exceptionResponse _ => 0x12#8
  | .byteCountMismatch => 0x13#8
  | .frameTooShort => 0x14#8
  | .wrongRegisterCount => 0x20#8
  | .invalidSlaveAddress => 0x30#8
  | .illegalCommand => 0x3F#8

/-- What `raise` leaves in ERROR.EXC_CODE: R12 writes it for EXCEPTION_RESPONSE alone (log 14). -/
def excAfter (e : ErrorCode) (old : Byte) : Byte :=
  match e with
  | .exceptionResponse code => code
  | .portUnavailable | .timeout | .ioError | .notOpen | .crcMismatch | .addressMismatch
  | .byteCountMismatch | .frameTooShort | .wrongRegisterCount | .invalidSlaveAddress | .illegalCommand => old

end Sys2Proof.Machine
end

