-- ==== Sys2Proof/Machine/Ops.lean ====
section
/-! DEFINITION. The named operations over memory and registers, and the block's error entry: `accept`, `finish`,
`raise` (10_state.md R31, R32, R48 to R51; 00_scope.md R12; 60_exceptions.md R256, R257). -/

namespace Sys2Proof.Machine

/-! Memory: the storage of the three buffers. -/

/-- The byte written at an offset; `none` where nothing has been written (R51). -/
def Memory.read : Memory → Nat → Option Byte
  | [], _ => none
  | (a, b) :: m, k => if k = a then some b else Memory.read m k

/-- Store a byte, keeping the offsets strictly rising. -/
def Memory.write : Memory → Nat → Byte → Memory
  | [], k, v => [(k, v)]
  | (a, b) :: m, k, v =>
      if k < a then (k, v) :: (a, b) :: m
      else if k = a then (k, v) :: m
      else (a, b) :: Memory.write m k v

/-- The canonical form: offsets strictly rising. -/
def Memory.wf : Memory → Bool
  | [] => true
  | [_] => true
  | (a, _) :: (a', b') :: m => decide (a < a') && Memory.wf ((a', b') :: m)

/-- The offset of TXBUF[i] in the window (R23, R48). -/
def txAddr (i : Nat) : Nat := 0x100 + 4 * i

/-- The offset of REGVAL[i] (R23, R50). Its low byte is stored here and its high byte at the next offset; no host
access sees which (R62, log 11). -/
def regValAddr (i : Nat) : Nat := 0x200 + 4 * i

/-- The offset of RXBUF[i] (R23, R49). -/
def rxAddr (i : Nat) : Nat := 0x400 + 4 * i

/-- The byte a rule or the host reads at an offset: what was written, or else a draw (R51, I1 to I3, log 6). -/
def peek (s : State) (a : Nat) : Byte := (s.mem.read a).getD (Config.freeByte s.draws a)

/-- TXBUF[i] (R48). -/
def txBuf (s : State) (i : Nat) : Byte := peek s (txAddr i)

/-- RXBUF[i] (R49). -/
def rxBuf (s : State) (i : Nat) : Byte := peek s (rxAddr i)

/-- REGVAL[i] (R50). -/
def regVal (s : State) (i : Nat) : Half := joinBytes (peek s (regValAddr i + 1)) (peek s (regValAddr i))

/-- Store one 16-bit value into REGVAL[i]. -/
def writeRegVal (m : Memory) (i : Nat) (v : Half) : Memory :=
  (m.write (regValAddr i) (loByte v)).write (regValAddr i + 1) (hiByte v)

/-- Store bytes into TXBUF from index `i` on. -/
def writeTxBuf : Memory → Nat → List Byte → Memory
  | m, _, [] => m
  | m, i, b :: bs => writeTxBuf (m.write (txAddr i) b) (i + 1) bs

/-- Store values into REGVAL from index `i` on. -/
def writeRegVals : Memory → Nat → List Half → Memory
  | m, _, [] => m
  | m, i, v :: vs => writeRegVals (writeRegVal m i v) (i + 1) vs

/-- The entries of RXBUF, 260 of them (R9, R45). -/
def rxBufSize : Nat := 260

/-- `RXBUF[0..m)` as a list of bytes (R11). -/
def rxFrame (s : State) (m : Nat) : List Byte := (List.range m).map (rxBuf s)

/-- A new draw: what an unwritten entry reads as is fresh at each event (R51, log 6). -/
def nextDraw (s : State) : State := { s with draws := s.draws + 1 }

/-! Commands and errors. -/

/-- `accept(op)` (R32): a command starts. With it the last error is gone (R257). -/
def accept (op : BitVec 4) (s : State) : State :=
  { s with done := false, err := false, lastOp := op, errCode := 0#8, excCode := 0#8 }

/-- `finish` (R31): the running command ends. -/
def finish (s : State) : State :=
  { s with phase := .idle, done := true, err := decide (s.errCode ≠ 0#8) }

/-- `raise E(info)` (R12), the block's "trap entry" (R256): ERROR is written, then the command finishes. Nothing else
is saved and control moves nowhere. -/
def raiseError (e : ErrorCode) (s : State) : State :=
  finish { s with errCode := codeNumber e, excCode := excAfter e s.excCode }

/-- A CMD write while BUSY (R92): CMD_REJ is set and nothing else changes. -/
def reject (s : State) : State := { s with cmdRej := true }

/-- A CMD write whose OP field is `op` (R90): rejected while BUSY, else accepted and run. -/
def issue (op : BitVec 4) (body : State → Result) (s : State) : Result :=
  if busy s then .next (reject s) else body (accept op s)

/-- SLAVE_ADDR is in 1..247, the check of OPEN, BUILD and XFER (R122, R161, R230). -/
def addressOk (s : State) : Bool := slaveInRange s.slaveAddr

end Sys2Proof.Machine
end

