-- ==== Sys2Proof/Machine/Combiner.lean ====
section
/-! DEFINITION. The float register combiner, DECODE (42_register_decoder.md R210, R212), and how a host reads the
pattern it leaves (R211). -/

namespace Sys2Proof.Machine

/-- DECODE after its accept (R210): the two registers joined, the first in the more significant half (R61). -/
def decodeBody (s : State) : Result :=
  if s.regN ≠ 2#8 then .next (raiseError .wrongRegisterCount s)
  else .next (finish { s with floatResult := regVal s 0 ++ regVal s 1 })

/-- DECODE (R210). -/
def execDecode (s : State) : Result := issue 6#4 decodeBody s

/-- What a binary32 pattern stands for (R211). A zero carries no sign: DESIGN CHOICE, log 25. -/
inductive FloatValue where
  | real (q : ℚ)
  | infinity (negative : Bool)
  | nan (quiet : Bool)
deriving DecidableEq

/-- The value formula of R211 (log 20). The block never evaluates it; the host does, on FLOAT_RESULT. The patterns of +0
and of -0 both give `.real 0`, as the formula's product is one rational; R211 does not say whether they are two values
(DESIGN CHOICE, log 25). The pattern itself keeps the sign (R212). -/
def floatValue (w : Word) : FloatValue :=
  let sign : ℚ := if w.getLsbD 31 then -1 else 1
  let e := (w.extractLsb' 23 8).toNat
  let f := (w.extractLsb' 0 23).toNat
  if e = 0 then .real (sign * ((f : ℚ) / 2 ^ 23) / 2 ^ 126)
  else if e ≤ 254 then .real (sign * 2 ^ e / 2 ^ 127 * (1 + (f : ℚ) / 2 ^ 23))
  else if f = 0 then .infinity (w.getLsbD 31)
  else .nan (w.getLsbD 22)

end Sys2Proof.Machine
end

