-- ==== Sys2Proof/Machine/Session.lean ====
section
/-! DEFINITION. The session commands OPEN and CLOSE (41_transport.md R161 to R163). -/

namespace Sys2Proof.Machine

/-- The level of `phy_present` at an OPEN: the one announced, or else a draw (R8, R104, log 5). -/
def phyPresentNow (s : State) : Bool := s.phyLevel.getD (Config.phyPresent s.draws)

/-- `phy_present` has been sampled: an announced level held for one OPEN only (R104, log 5). -/
def samplePhy (s : State) : State := { s with phyLevel := none }

/-- OPEN after its accept (R161), with the sampled level: already open, then the address, then the PHY (R254). -/
def openBody (present : Bool) (s : State) : Result :=
  if s.opened then .next (finish s)
  else if !addressOk s then .next (raiseError .invalidSlaveAddress s)
  else if !present then .next (raiseError .portUnavailable s)
  else .next (finish { s with opened := true })

/-- OPEN (R161). -/
def execOpenPort (s : State) : Result := issue 1#4 (fun t => openBody (phyPresentNow t) (samplePhy t)) s

/-- CLOSE (R163). -/
def execClosePort (s : State) : Result := issue 2#4 (fun t => .next (finish { t with opened := false })) s

end Sys2Proof.Machine
end

