-- ==== Sys2Proof/Machine/Codec.lean ====
section
/-! DEFINITION. The frame codec: BUILD, PARSE and CRC (40_frame_codec.md R122 to R130). -/

namespace Sys2Proof.Machine

/-- The request the parameter registers ask for, CRC included (R95, R122). -/
def builtFrame (s : State) : List Byte :=
  requestFrame s.slaveAddr s.startReg s.regCount (crc16 (requestBody s.slaveAddr s.startReg s.regCount))

/-- The build step of BUILD and XFER (R122, R230): TXBUF[0..8) and TX_LEN, without `finish`. -/
def buildRequest (s : State) : State := { s with mem := writeTxBuf s.mem 0 (builtFrame s), txLen := 8#4 }

/-- BUILD after its accept (R122). -/
def buildBody (s : State) : Result :=
  if !addressOk s then .next (raiseError .invalidSlaveAddress s) else .next (finish (buildRequest s))

/-- BUILD (R122). -/
def execBuild (s : State) : Result := issue 3#4 buildBody s

/-- A PARSE check fails (R124): REG_N is 0 and the error is raised. -/
def parseFail (e : ErrorCode) (s : State) : State := raiseError e { s with regN := 0#8 }

/-- The trailer of a frame of `len` bytes, little-endian (R98, R124). -/
def trailer (s : State) (len : Nat) : Half := joinBytes (rxBuf s (len - 1)) (rxBuf s (len - 2))

/-- Register `i` of a response: bytes 3 + 2i and 4 + 2i, big-endian (R96, R98). -/
def responseReg (s : State) (i : Nat) : Half := joinBytes (rxBuf s (3 + 2 * i)) (rxBuf s (4 + 2 * i))

/-- A PARSE that passes every check (R124): REGVAL[0..n), REG_N and RESP_HDR, then `finish`. -/
def parseAccept (s : State) : State :=
  finish { s with
    mem := writeRegVals s.mem 0 ((List.range s.regCount.toNat).map (responseReg s))
    regN := s.regCount.extractLsb' 0 8
    respHdr := rxBuf s 2 ++ rxBuf s 1 ++ rxBuf s 0 }

/-- Checks (3) to (6) of PARSE, once the CRC agrees (R124, R125). -/
def parseHeader (len : Nat) (s : State) : State :=
  if rxBuf s 0 ≠ s.slaveAddr then parseFail .addressMismatch s
  else if (rxBuf s 1).getLsbD 7 then parseFail (.exceptionResponse (rxBuf s 2)) s
  else if (rxBuf s 2).toNat ≠ 2 * s.regCount.toNat then parseFail .byteCountMismatch s
  else if len < 5 + 2 * s.regCount.toNat then parseFail .frameTooShort s
  else parseAccept s

/-- PARSE after its accept, or at the end of an XFER (R124, R231). Check (1) is the header and trailer length; check
(2) stores the recomputed CRC whether it agrees or not. -/
def parseBody (s : State) : Result :=
  let len := s.rxLen.toNat
  if len < 5 then .next (parseFail .frameTooShort s)
  else if rxBufSize < len then .fault (.noRxBufEntry (len - 1))
  else
    let c := crc16 (rxFrame s (len - 2))
    let t := { s with crcResult := c }
    if c ≠ trailer s len then .next (parseFail .crcMismatch t) else .next (parseHeader len t)

/-- PARSE (R124). -/
def execParse (s : State) : Result := issue 5#4 parseBody s

/-- CRC after its accept (R130). -/
def crcBody (s : State) : Result :=
  let len := s.rxLen.toNat
  if rxBufSize < len then .fault (.noRxBufEntry (len - 1))
  else .next (finish { s with crcResult := crc16 (rxFrame s len) })

/-- CRC (R130). -/
def execCrc (s : State) : Result := issue 7#4 crcBody s

end Sys2Proof.Machine
end

