-- ==== Sys2Proof/Machine/Transport.lean ====
section
/-! DEFINITION. The exchange: EXCHANGE, XFER, the TX engine, the RX assembler and the serial timeout controller
(41_transport.md R164 to R178; 43_xfer.md R230, R231). -/

namespace Sys2Proof.Machine

/-- The start of an exchange (R164, R230): an empty response, a new timeout window, the first byte. -/
def startExchange (s : State) : State := { s with rxLen := 0#9, timer := 0#32, txIdx := 0 }

/-- EXCHANGE after its accept (R164). With nothing built it only receives. -/
def exchangeBody (s : State) : Result :=
  if !s.opened then .next (raiseError .notOpen s)
  else if s.txLen = 0#4 then .next { startExchange s with phase := .rx }
  else .next { startExchange s with phase := .tx }

/-- EXCHANGE (R164). -/
def execExchange (s : State) : Result := issue 4#4 exchangeBody s

/-- XFER after its accept (R230). -/
def xferBody (s : State) : Result :=
  if !s.opened then .next (raiseError .notOpen s)
  else if !addressOk s then .next (raiseError .invalidSlaveAddress s)
  else .next { startExchange (buildRequest s) with phase := .tx }

/-- XFER (R230). -/
def execXfer (s : State) : Result := issue 8#4 xferBody s

/-- `tx_valid` (R55): a byte is on offer. -/
def txValid (s : State) : Bool := decide (s.phase = .tx) && decide (s.txIdx < s.txLen.toNat)

/-- `tx_data` (R22, R55): the byte on offer. -/
def txData (s : State) : Byte := txBuf s s.txIdx

/-- The TX engine takes one accepted byte (R165). -/
def sendByte (s : State) : State :=
  { s with
    wireOut := s.wireOut ++ [txData s]
    txIdx := s.txIdx + 1
    phase := if s.txIdx + 1 = s.txLen.toNat then .rx else s.phase }

/-- A TxAccept event (R165, R167). -/
def txAccept (s : State) : Result :=
  if s.phase ≠ .tx then .next s
  else if txValid s then .next (sendByte s)
  else .fault .noByteOnOffer

/-- A TxError event (R166, R167). REG_N stays, in an XFER too (R46, R256); R252 says otherwise:
DESIGN CHOICE, log 24. -/
def txError (s : State) : Result :=
  if s.phase = .tx then .next (raiseError .ioError s) else .next s

/-- `complete(L)` (R169): 5 bytes when bit 7 of byte 1 is set, else 5 + byte 2. -/
def frameComplete (s : State) (len : Nat) : Bool :=
  (decide (2 ≤ len) && (rxBuf s 1).getLsbD 7 && decide (len = 5))
    || (decide (3 ≤ len) && !(rxBuf s 1).getLsbD 7 && decide (len = 5 + (rxBuf s 2).toNat))

/-- `frame_done` (R175): an XFER runs PARSE in this step (R231), an EXCHANGE finishes. -/
def frameDone (s : State) : Result := if isXfer s then parseBody s else .next (finish s)

/-- The RX assembler stores a byte at RXBUF[RX_LEN] (R168). -/
def storeRxByte (b : Byte) (s : State) : State :=
  { s with mem := s.mem.write (rxAddr s.rxLen.toNat) b, rxLen := s.rxLen + 1#9 }

/-- An RxByte event (R168, R170, R171). An error leaves REG_N, in an XFER too (R46, R256); R252 says
otherwise: DESIGN CHOICE, log 24. -/
def rxByte (b : Byte) (err : Bool) (s : State) : Result :=
  if s.phase ≠ .rx then .next s
  else if err then .next (raiseError .ioError s)
  else if rxBufSize ≤ s.rxLen.toNat then .fault (.noRxBufEntry s.rxLen.toNat)
  else
    let t := storeRxByte b s
    if frameComplete t t.rxLen.toNat then frameDone t else .next t

/-- A Tick event (R172, R173). A timeout leaves REG_N, in an XFER too (R46, R256); R252 says otherwise: DESIGN
CHOICE, log 24. -/
def tick (s : State) : Result :=
  if s.phase = .idle then .next s
  else
    let t := { s with timer := s.timer + 1#32 }
    if t.timer = t.timeoutTicks then .next (raiseError .timeout t) else .next t

/-- A TxAccept as an item of the script. -/
def txAcceptItem : Input := .event .txAccept

/-- A byte received without error as an item of the script (R104). -/
def rxByteItem (b : Byte) : Input := .event (.rxByte b false)

/-- Bytes on the line without error (R104): the first is the RxByte event of this step, and the others stand first in the
script, each the event of a later step (R13, log 2). -/
def receiveBytes : List Byte → State → Result
  | [], s => .next s
  | b :: bs, s => rxByte b false (nextDraw { s with input := bs.map rxByteItem ++ s.input })

/-- The PHY takes `n` bytes (R104 `TXACK×n`): one TxAccept is the event of this step, and the others stand first in the
script, each the event of a later step (R13, log 2). -/
def acceptBytes : Nat → State → Result
  | 0, s => .next s
  | n + 1, s => txAccept (nextDraw { s with input := List.replicate n txAcceptItem ++ s.input })

end Sys2Proof.Machine
end

