-- ==== Sys2Proof/Machine/Wire.lean ====
section
/-! DEFINITION. The wire frames as instructions: a whole frame crosses the PHY interface with no other event between its
bytes (30_encoding.md R95 to R97; logs 2 and 3). Its first byte is the event of the instruction's step; the script then
holds the events of the other bytes, one for each of the steps that follow (00_scope.md R13). -/

namespace Sys2Proof.Machine

/-- TXBUF holds these bytes from index `i` on, all of them written. -/
def txBufHolds (s : State) : Nat → List Byte → Bool
  | _, [] => true
  | i, b :: bs => decide (s.mem.read (txAddr i) = some b) && txBufHolds s (i + 1) bs

/-- The block has the whole of this frame on offer: nothing of it is sent yet (R165). -/
def offersFrame (s : State) (bytes : List Byte) : Bool :=
  decide (s.phase = .tx) && decide (s.txIdx = 0) && decide (s.txLen.toNat = bytes.length) && txBufHolds s 0 bytes

/-- REQ_READ_HOLDING (R95, R122): the request the block has on offer goes out, one TxAccept a byte (R165). The block sends
no other frame (R95), so any other request on the line is not the block's: its bytes arrive at the receiver (R168, R171;
log 3). -/
def execReqReadHolding (slave : Byte) (start count check : Half) (s : State) : Result :=
  let bytes := requestFrame slave start count check
  if offersFrame s bytes then acceptBytes bytes.length s else receiveBytes bytes s

/-- RESP_READ_HOLDING (R96): its bytes arrive at the receiver (R168, R171). In the RX phase with nothing received they
complete a frame (R169), which ends an EXCHANGE or runs PARSE for an XFER (R175, R231). -/
def execRespReadHolding (slave : Byte) (func : BitVec 7) (byteCount : Byte) (payload : List Byte) (check : Half)
    (s : State) : Result :=
  receiveBytes (responseFrame slave func byteCount payload check) s

/-- RESP_EXCEPTION (R97): its five bytes arrive at the receiver (R168, R171) and complete an exception frame (R169). -/
def execRespException (slave : Byte) (func : BitVec 7) (code : Byte) (check : Half) (s : State) : Result :=
  receiveBytes (exceptionFrame slave func code check) s

end Sys2Proof.Machine
end

