-- ==== Sys2Proof/Machine/Dispatch.lean ====
section
/-! DEFINITION. The meaning of every instruction: one arm per constructor. -/

namespace Sys2Proof.Machine

def exec (i : Instr) (s : State) : Host.Outcome State Fault Refusal :=
  match i with
  | .openPort => Sys2Proof.Machine.execOpenPort s
  | .closePort => Sys2Proof.Machine.execClosePort s
  | .build => Sys2Proof.Machine.execBuild s
  | .exchange => Sys2Proof.Machine.execExchange s
  | .parse => Sys2Proof.Machine.execParse s
  | .decode => Sys2Proof.Machine.execDecode s
  | .crc => Sys2Proof.Machine.execCrc s
  | .xfer => Sys2Proof.Machine.execXfer s
  | .reqReadHolding slave start count check => Sys2Proof.Machine.execReqReadHolding slave start count check s
  | .respReadHolding slave func byteCount payload check => Sys2Proof.Machine.execRespReadHolding slave func byteCount payload check s
  | .respException slave func code check => Sys2Proof.Machine.execRespException slave func code check s

end Sys2Proof.Machine
end

