-- ==== Sys2Proof/Machine/Operands.lean ====
section
/-! DEFINITION. The host register window: the map, admission, reads, and writes with their locks
(10_state.md R23 to R57; 20_memory.md R62 to R67). -/

namespace Sys2Proof.Machine

/-- The byte offset of a register in the window (R23). -/
def regOffset : Reg → Nat
  | .cmd => 0x000
  | .status => 0x004
  | .error => 0x008
  | .slaveAddr => 0x00C
  | .startReg => 0x010
  | .regCount => 0x014
  | .lineCfg => 0x018
  | .timeoutTicks => 0x01C
  | .timer => 0x020
  | .txLen => 0x024
  | .rxLen => 0x028
  | .crcResult => 0x02C
  | .respHdr => 0x030
  | .regN => 0x034
  | .floatResult => 0x038
  | .txBuf i => txAddr i.val
  | .regVal i => regValAddr i.val
  | .rxBuf i => rxAddr i.val

/-- The 15 single registers by word index (R63, 0x000 to 0x038). -/
def singleReg : Nat → Option Reg
  | 0 => some .cmd
  | 1 => some .status
  | 2 => some .error
  | 3 => some .slaveAddr
  | 4 => some .startReg
  | 5 => some .regCount
  | 6 => some .lineCfg
  | 7 => some .timeoutTicks
  | 8 => some .timer
  | 9 => some .txLen
  | 10 => some .rxLen
  | 11 => some .crcResult
  | 12 => some .respHdr
  | 13 => some .regN
  | 14 => some .floatResult
  | _ => none

/-- The register at a word index of the window, if one is mapped there (R63). -/
def regOfWord (k : Nat) : Option Reg :=
  if k < 0x40 then singleReg k
  else if k < 0x80 then
    if h : k - 0x40 < 8 then some (.txBuf ⟨k - 0x40, h⟩) else none
  else if k < 0x100 then
    if h : k - 0x80 < 127 then some (.regVal ⟨k - 0x80, h⟩) else none
  else
    if h : k - 0x100 < 260 then some (.rxBuf ⟨k - 0x100, h⟩) else none

/-- Admission of a host access (R62): size 4, aligned, mapped. `none` is the error response. -/
def admitted (offset : BitVec 12) (size : BitVec 3) : Option Reg :=
  if size = 4#3 ∧ offset.toNat % 4 = 0 then regOfWord (offset.toNat / 4) else none

/-- What the host reads from a register: the field, zero-extended (R64); CMD reads 0 (R24). -/
def readReg (s : State) : Reg → Word
  | .cmd => 0#32
  | .status => statusWord s
  | .error => errorWord s
  | .slaveAddr => s.slaveAddr.zeroExtend 32
  | .startReg => s.startReg.zeroExtend 32
  | .regCount => s.regCount.zeroExtend 32
  | .lineCfg => Config.lineCfg
  | .timeoutTicks => s.timeoutTicks
  | .timer => s.timer
  | .txLen => s.txLen.zeroExtend 32
  | .rxLen => s.rxLen.zeroExtend 32
  | .crcResult => s.crcResult.zeroExtend 32
  | .respHdr => s.respHdr.zeroExtend 32
  | .regN => s.regN.zeroExtend 32
  | .floatResult => s.floatResult
  | .txBuf i => (txBuf s i.val).zeroExtend 32
  | .regVal i => (regVal s i.val).zeroExtend 32
  | .rxBuf i => (rxBuf s i.val).zeroExtend 32

/-- A register a host write never changes in any state: CMD is a command port (R24), the others are read-only (R67). -/
def hostReadOnly : Reg → Bool
  | .cmd | .error | .lineCfg | .timeoutTicks | .timer | .txLen | .crcResult | .respHdr | .floatResult | .txBuf _ => true
  | .status | .slaveAddr | .startReg | .regCount | .rxLen | .regN | .regVal _ | .rxBuf _ => false

/-- The write lock (R56): while BUSY, and for SLAVE_ADDR while OPEN too. A STATUS write is never locked (R25). -/
def writeLocked (s : State) : Reg → Bool
  | .slaveAddr => busy s || s.opened
  | .startReg | .regCount | .rxLen | .regN | .regVal _ | .rxBuf _ => busy s
  | .cmd | .status | .error | .lineCfg | .timeoutTicks | .timer | .txLen | .crcResult | .respHdr | .floatResult
  | .txBuf _ => false

/-- An unlocked write to a register other than CMD: the low bits are stored (R64), RX_LEN above 260 and REG_N above 127
are ignored whole (R42, R46), STATUS clears CMD_REJ on bit 4 (R25), and a read-only register ignores it (R67). -/
def storeReg (s : State) (v : Word) : Reg → State
  | .status => if v.getLsbD 4 then { s with cmdRej := false } else s
  | .slaveAddr => { s with slaveAddr := v.extractLsb' 0 8 }
  | .startReg => { s with startReg := v.extractLsb' 0 16 }
  | .regCount => { s with regCount := v.extractLsb' 0 16 }
  | .rxLen => if v.toNat ≤ 260 then { s with rxLen := v.extractLsb' 0 9 } else s
  | .regN => if v.toNat ≤ 127 then { s with regN := v.extractLsb' 0 8 } else s
  | .regVal i => { s with mem := writeRegVal s.mem i.val (v.extractLsb' 0 16) }
  | .rxBuf i => { s with mem := s.mem.write (rxAddr i.val) (v.extractLsb' 0 8) }
  | .cmd | .error | .lineCfg | .timeoutTicks | .timer | .txLen | .crcResult | .respHdr | .floatResult | .txBuf _ => s

/-- An admitted host write to a register other than CMD. -/
def writeReg (s : State) (v : Word) (r : Reg) : State :=
  if writeLocked s r then s else storeReg s v r

/-- The answer to a host access (R62): on a read the data, or 0 with the error response; a write leaves `bus_rdata`
as it is (log 9). -/
def answerRead (data : Option Word) (s : State) : State :=
  match data with
  | some v => { s with bus := ⟨false, v⟩ }
  | none => { s with bus := ⟨true, 0#32⟩ }

/-- The answer to a host write: `bus_err` alone. -/
def answerWrite (err : Bool) (s : State) : State := { s with bus := ⟨err, s.bus.rdata⟩ }

/-- A host read (R62, R67): it changes no state of the block, only the answer on the bus. -/
def hostRead (offset : BitVec 12) (size : BitVec 3) (s : State) : State :=
  answerRead ((admitted offset size).map (readReg s)) s

end Sys2Proof.Machine
end

