-- ==== Sys2Proof/Machine/Events.lean ====
section
/-! DEFINITION. What one event does: the events of 00_scope.md R13, a host access (20_memory.md R62), a CMD write
(30_encoding.md R90), Reset (70_reset_and_hazards.md R280), the events of one clock (60_exceptions.md R262), a frame. -/

namespace Sys2Proof.Machine

/-- An illegal command word while IDLE (R93): accepted, LAST_OP recorded, and ended with ILLEGAL_COMMAND; while BUSY
it is rejected as any other (R92). -/
def illegalCommand (w : Word) (s : State) : Result :=
  issue (opField w) (fun t => .next (raiseError .illegalCommand t)) s

/-- A write of `w` to CMD (R90): the word is decoded and the command runs. -/
def runCommand (w : Word) (s : State) : Result :=
  match decode (.command w) with
  | .ok i => exec i s
  | .error _ => illegalCommand w s

/-- A host write (R62): an admitted write to CMD submits a command (R90), another admitted write goes to its register,
and any other access gets the error response and changes nothing else. -/
def hostWrite (offset : BitVec 12) (size : BitVec 3) (v : Word) (s : State) : Result :=
  match admitted offset size with
  | some .cmd => runCommand v (answerWrite false s)
  | some r => .next (writeReg (answerWrite false s) v r)
  | none => .next (answerWrite true s)

/-- A Reset event (R280). The buffers count as unspecified from here on (R280, log 7); TIMEOUT_TICKS is a constant; the
model's own fields and the bus answer stay. -/
def resetBlock (s : State) : State :=
  { State.reset with
    timeoutTicks := s.timeoutTicks
    bus := s.bus
    input := s.input
    phyLevel := s.phyLevel
    draws := s.draws
    wireOut := s.wireOut }

/-- One event (R13), with a draw of its own (log 6). -/
def handleEvent (e : Event) (s₀ : State) : Result :=
  let s := nextDraw s₀
  match e with
  | .hostWrite offset size value => hostWrite offset size value s
  | .hostRead offset size => .next (hostRead offset size s)
  | .txAccept => txAccept s
  | .txError => txError s
  | .rxByte b err => rxByte b err s
  | .tick => tick s
  | .reset => .next (resetBlock s)

/-- The event of a PHY transmit signal. -/
def txSignalEvent : TxSignal → Event
  | .accept => .txAccept
  | .error => .txError

/-- The event of a host access. -/
def hostAccessEvent : HostAccess → Event
  | .write offset size value => .hostWrite offset size value
  | .read offset size => .hostRead offset size

/-- The order in which the events of one clock are handled (R262): Reset alone if it is there, else TxAccept or
TxError, RxByte, Tick, the host access. -/
def clockEvents (c : Clock) : List Event :=
  if c.rst then [.reset]
  else (c.tx.map txSignalEvent).toList ++ (c.rx.map fun p => Event.rxByte p.1 p.2).toList
    ++ (if c.tick then [.tick] else []) ++ (c.host.map hostAccessEvent).toList

/-- A frame on the line: the instruction its bytes decode to. Bytes that are no frame of their kind still arrive, as
any bytes may (R16, log 19). -/
def runFrame (kind : FrameKind) (bytes : List Byte) (s : State) : Result :=
  match decode (.frame kind bytes) with
  | .ok i => exec i s
  | .error _ => receiveBytes bytes s

/-- The input item that carries a code to the block: a write to CMD (R105), or the frame's bytes on the line. -/
def inputOfCode : Code → Input
  | .command w => .event (.hostWrite 0x000#12 4#3 w)
  | .frame kind bytes => .frame kind bytes

/-- The first event of a script is handled, exactly one (R13). Of a clock or a frame the first event is handled and the
others stay in the script as events; one without an event is passed over. An announced level is noted on the way (log 5).
With no event left nothing happens (log 1). -/
def runScript : List Input → State → Result
  | [], s => .next { s with input := [] }
  | .event e :: rest, s => handleEvent e { s with input := rest }
  | .clock c :: rest, s =>
      match clockEvents c with
      | [] => runScript rest { s with input := rest }
      | e :: es => handleEvent e { s with input := es.map .event ++ rest }
  | .phyPresent level :: rest, s => runScript rest { s with input := rest, phyLevel := some level }
  | .frame _ [] :: rest, s => runScript rest { s with input := rest }
  | .frame kind (b :: bs) :: rest, s => runFrame kind (b :: bs) { s with input := rest }

/-- The machine fetches the next event of its script (log 1). -/
def fetchAndHandle (s : State) : Result := runScript s.input s

end Sys2Proof.Machine
end

