-- ==== Sys2Proof/Machine/Step.lean ====
section
/-! DEFINITION. One step of the block, and how the host's checks place an instruction (00_scope.md R13; log 1). -/

namespace Sys2Proof.Machine

/-- One step: the next input event is handled (R13). -/
def step (s : State) : Host.Outcome State Fault Refusal := fetchAndHandle s

/-- The state with an instruction, given by the bits of its opcode-table row, as the next input item (logs 1, 13). -/
def State.withFetchWord (s : State) (nbits w : Nat) : State :=
  match tableCode nbits w with
  | some c => { s with input := inputOfCode c :: s.input }
  | none => s

end Sys2Proof.Machine
end

