-- ==== Sys2Proof/Safety.lean ====
section
/-! DEFINITION. What a claim may rest on: the states a run from reset can reach, and when a command has ended
(10_state.md R21 to R51; 43_xfer.md R233; 00_scope.md R19). -/

namespace Sys2Proof.Safety

open Sys2Proof.Machine

/-- A command has ended: DONE with BUSY clear (R19, 92_eei_decisions.md D44). -/
def commandEnded (s : State) : Bool := s.done && !busy s

/-- The atomic commands of R94: they finish in the step of their CMD write (R66). -/
def atomicCommand : Instr → Bool
  | .openPort | .closePort | .build | .parse | .decode | .crc => true
  | .exchange | .xfer => false
  | .reqReadHolding _ _ _ _ => false
  | .respReadHolding _ _ _ _ _ => false
  | .respException _ _ _ _ => false

/-- The two bytes of each register, high byte first: the payload of a normal response (R96). -/
def payloadBytes : List Half → List Byte
  | [] => []
  | v :: vs => hiByte v :: loByte v :: payloadBytes vs

/-- A frame with its CRC appended, low byte first (R60, R121). -/
def withTrailer (bytes : List Byte) : List Byte := bytes ++ [loByte (crc16 bytes), hiByte (crc16 bytes)]

/-- A byte sequence with bit `j` of byte `k` flipped (R121, R129). -/
def flipBit (bytes : List Byte) (k j : Nat) : List Byte := bytes.modify k (fun b => b ^^^ (1#8 <<< j))

/-- The value of a frame's last two bytes, low byte first (R98). -/
def trailerOf (bytes : List Byte) : Half :=
  joinBytes (bytes.getD (bytes.length - 1) 0#8) (bytes.getD (bytes.length - 2) 0#8)

/-- The response of a slave holding these registers (R128): its bytes without the CRC. -/
def responseBody (slave : Byte) (values : List Half) : List Byte :=
  slave :: 0x03#8 :: BitVec.ofNat 8 (2 * values.length) :: payloadBytes values

/-- The error codes the block produces (R250). -/
def producedCodes : List Byte :=
  [0x00#8, 0x01#8, 0x02#8, 0x03#8, 0x04#8, 0x10#8, 0x11#8, 0x12#8, 0x13#8, 0x14#8, 0x20#8, 0x30#8, 0x3F#8]

/-- The offsets that hold buffer storage: TXBUF[i], both bytes of REGVAL[i], and RXBUF[i] (R23). -/
def storageOffset (a : Nat) : Prop :=
  (∃ i, i < 8 ∧ a = txAddr i) ∨ (∃ i, i < 127 ∧ (a = regValAddr i ∨ a = regValAddr i + 1))
    ∨ (∃ i, i < 260 ∧ a = rxAddr i)

/-- The length at which the frame being received completes, as far as its header has arrived (R169); at most 260. -/
def frameLimit (s : State) : Nat :=
  if s.rxLen.toNat < 2 then rxBufSize
  else if (rxBuf s 1).getLsbD 7 then 5
  else if s.rxLen.toNat < 3 then rxBufSize
  else 5 + (rxBuf s 2).toNat

/-- The invariant of the block: it holds at reset and every step keeps it. -/
structure BlockInv (s : State) : Prop where
  /-- The buffers' storage is in canonical form. -/
  memWf : s.mem.wf = true
  /-- Nothing is stored outside the buffers (R23, R45). -/
  memMapped : ∀ c ∈ s.mem, storageOffset c.1
  /-- RX_LEN is at most 260 (R42). -/
  rxLenMax : s.rxLen.toNat ≤ 260
  /-- REG_N is at most 127 (R46). -/
  regNMax : s.regN.toNat ≤ 127
  /-- TX_LEN is 0 or 8 (R41). -/
  txLenBuilt : s.txLen = 0#4 ∨ s.txLen = 8#4
  /-- Once a request is built, all of TXBUF is written (R51). -/
  txBuilt : s.txLen = 8#4 → ∀ i, i < 8 → (s.mem.read (txAddr i)).isSome = true
  /-- `tx_idx` stays within the request (R22). -/
  txIdxMax : s.txIdx ≤ s.txLen.toNat
  /-- In the TX phase a byte is on offer (R55). -/
  txPhase : s.phase = .tx → s.txIdx < s.txLen.toNat
  /-- In the RX phase the whole request is sent (R165). -/
  rxPhase : s.phase = .rx → s.txIdx = s.txLen.toNat
  /-- The bytes handed to the PHY in this exchange are TXBUF[0..tx_idx), in order and with nothing between (R68). -/
  sentInOrder : s.phase ≠ .idle → ∃ before, s.wireOut = before ++ (List.range s.txIdx).map (txBuf s)
  /-- The timeout window is at least one tick (R8). -/
  timeoutPositive : s.timeoutTicks ≠ 0#32
  /-- TIMER never passes T_RESP_TICKS (R40). -/
  timerMax : s.timer.toNat ≤ s.timeoutTicks.toNat
  /-- While an exchange runs its window has not elapsed (R172). -/
  timerRuns : s.phase ≠ .idle → s.timer.toNat < s.timeoutTicks.toNat
  /-- An open session has an address in range (R233). -/
  sessionAddress : s.opened = true → slaveInRange s.slaveAddr = true
  /-- An exchange runs only in a session (R164, R230). -/
  busyOpened : s.phase ≠ .idle → s.opened = true
  /-- While BUSY, no result and no error is reported (R72). -/
  busyUnreported : s.phase ≠ .idle → s.done = false ∧ s.err = false ∧ s.errCode = 0#8 ∧ s.excCode = 0#8
  /-- BUSY is 1 only during an EXCHANGE or an XFER (R26). -/
  busyCommand : s.phase ≠ .idle → s.lastOp = 4#4 ∨ s.lastOp = 8#4
  /-- While IDLE, either the last command has ended and ERR tells whether it failed (R31), or none has run (R28). -/
  idleReported : s.phase = .idle →
    (s.done = true ∧ s.err = decide (s.errCode ≠ 0#8))
      ∨ (s.done = false ∧ s.err = false ∧ s.errCode = 0#8 ∧ s.excCode = 0#8 ∧ s.lastOp = 0#4)
  /-- EXC_CODE is non-zero only with EXCEPTION_RESPONSE (R34). -/
  excOnly : s.excCode ≠ 0#8 → s.errCode = 0x12#8
  /-- ERROR.CODE is one of the codes of R250. -/
  errProduced : s.errCode ∈ producedCodes
  /-- Nothing is received before the request is sent (R171). -/
  txNothingReceived : s.phase = .tx → s.rxLen = 0#9
  /-- The bytes received so far are written (R168). -/
  rxWritten : s.phase = .rx → ∀ i, i < s.rxLen.toNat → (s.mem.read (rxAddr i)).isSome = true
  /-- The frame being received is not complete (R168, R169). -/
  rxIncomplete : s.phase = .rx → s.rxLen.toNat < frameLimit s

/-- The first byte of a frame is in RXBUF, and nothing else of the block changed: the other bytes stand first in the script,
each as an RxByte event with a step of its own (R13; logs 2, 6). -/
def firstByteReceived (bytes : List Byte) (s u : State) : Prop :=
  u = { s with rxLen := 1#9, draws := s.draws + 1, mem := u.mem,
               input := bytes.tail.map (fun b => .event (.rxByte b false)) ++ s.input }
    ∧ u.mem.read (rxAddr 0) = bytes.head? ∧ ∀ a : Nat, a ≠ rxAddr 0 → u.mem.read a = s.mem.read a

end Sys2Proof.Safety
end

