-- ==== Sys2Proof/Certificates/Slice0/Obligations.lean ====
section
/-! DEFINITION. The statements for the provers, from the numbered rules of spec/. A next state is written out as an
update of the state before, so that every field the update does not name is unchanged. -/

open Sys2Proof Sys2Proof.Machine Sys2Proof.Safety

/-! ### Decoding, encoding, and what a step runs -/

/-- A step on a write to CMD whose word decodes to `i` is `exec i`, with the item consumed, the draw counted and the bus
answered (R90, R105; logs 1, 6, 9). -/
def Obligations.StepRunsDecodedCommand : Prop :=
  ∀ (s : State) (rest : List Input) (w : Word) (i : Instr),
    s.input = .event (.hostWrite 0x000#12 4#3 w) :: rest → decode (.command w) = .ok i →
    step s = exec i { s with input := rest, draws := s.draws + 1, bus := ⟨false, s.bus.rdata⟩ }

/-- A step on a frame that decodes to `i` is `exec i` with the item consumed (logs 1, 2: the model's choice). -/
def Obligations.StepRunsDecodedFrame : Prop :=
  ∀ (s : State) (rest : List Input) (kind : FrameKind) (bytes : List Byte) (i : Instr),
    s.input = .frame kind bytes :: rest → decode (.frame kind bytes) = .ok i →
    step s = exec i { s with input := rest }

/-- A step handles exactly one event (R13): the first of the script. On an event item it is the rule of that event, on the
state with the item consumed and a draw counted; a write to CMD answers the bus and runs the command. An announced level of
`phy_present` is noted before the event, and an OPEN uses it up. With no event left nothing happens. How events, draws and
levels are kept is the model's own bookkeeping (logs 1, 5, 6, 9). -/
def Obligations.EventsRunTheirRules : Prop :=
  (∀ s : State, ∃ (rest : List Input) (level : Option Bool),
      (∃ e : Event, step s = handleEvent e { s with input := rest, phyLevel := level })
        ∨ (rest = [] ∧ step s = .next { s with input := rest, phyLevel := level }))
  ∧ (∀ (s : State) (rest : List Input) (e : Event), s.input = .event e :: rest →
      step s = handleEvent e { s with input := rest })
  ∧ (∀ (s : State) (rest : List Input) (level : Bool), s.input = .phyPresent level :: rest →
      step s = step { s with input := rest, phyLevel := some level })
  ∧ (∀ s : State, s.input = [] → step s = .next s)
  ∧ ∀ s : State, let u : State := { s with draws := s.draws + 1 }
    (∀ offset size v, handleEvent (.hostWrite offset size v) s = hostWrite offset size v u)
    ∧ (∀ offset size, handleEvent (.hostRead offset size) s = .next (hostRead offset size u))
    ∧ handleEvent .txAccept s = txAccept u
    ∧ handleEvent .txError s = txError u
    ∧ (∀ b err, handleEvent (.rxByte b err) s = rxByte b err u)
    ∧ handleEvent .tick s = tick u
    ∧ (∀ w, hostWrite 0x000#12 4#3 w s = runCommand w { s with bus := ⟨false, s.bus.rdata⟩ })
    ∧ (∀ t, s.phase = .idle → exec .openPort s = .next t → t.phyLevel = none)

/-- Decoding an encoded instruction gives it back, for every instruction whose frame length is the one its header says,
whatever its other operands. -/
def Obligations.DecodeOfEncodeIsInstruction : Prop :=
  ∀ i : Instr, i.lengthsAgree = true → decode (encode i) = .ok i

/-- Every code that decodes is the encoding of the instruction it decodes to: no word and no frame has a second
meaning. -/
def Obligations.EncodeOfDecodeIsCode : Prop :=
  ∀ (c : Code) (i : Instr), decode c = .ok i → encode i = c ∧ i.lengthsAgree = true

/-- Words written out from the opcode map and the frame layouts decode to the instructions they stand for. -/
def Obligations.WrittenOutEncodingsDecode : Prop :=
  decode (.command 0x00000004#32) = .ok .exchange
    ∧ decode (.command 0x00000008#32) = .ok .xfer
    ∧ decode (.frame .request [0x19#8, 0x03#8, 0x00#8, 0x0E#8, 0x01#8, 0x02#8, 0xA6#8, 0x10#8])
        = .ok (.reqReadHolding 0x19#8 0x000E#16 0x0102#16 0x10A6#16)
    ∧ decode (.frame .response [0x19#8, 0x03#8, 0x02#8, 0x12#8, 0x34#8, 0x95#8, 0x31#8])
        = .ok (.respReadHolding 0x19#8 3#7 0x02#8 [0x12#8, 0x34#8] 0x3195#16)
    ∧ decode (.frame .response [0x19#8, 0x83#8, 0x02#8, 0x40#8, 0xF6#8])
        = .ok (.respException 0x19#8 3#7 0x02#8 0xF640#16)

/-- R93: exactly the words 1 to 8 are legal; any other, written to CMD while IDLE, is accepted, recorded in LAST_OP and
ended at once with ILLEGAL_COMMAND, and changes nothing else. -/
def Obligations.IllegalWordsEndAtOnce : Prop :=
  (∀ w : Word, (∃ i, decode (.command w) = .ok i) ↔ 1 ≤ w.toNat ∧ w.toNat ≤ 8)
    ∧ ∀ (s : State) (w : Word), s.phase = .idle → ¬ (1 ≤ w.toNat ∧ w.toNat ≤ 8) →
        runCommand w s
          = .next { s with lastOp := w.extractLsb' 0 4, done := true, err := true, errCode := 0x3F#8, excCode := 0#8 }

/-- R92: a write to CMD while BUSY sets CMD_REJ and changes nothing else, whatever the word. -/
def Obligations.CommandWhileBusyIsRejected : Prop :=
  ∀ (s : State) (w : Word), s.phase ≠ .idle → runCommand w s = .next { s with cmdRej := true }

/-! ### CRC-16/Modbus -/

/-- Corner cases and the worked example of R120. -/
def Obligations.CrcWorkedValues : Prop :=
  crc16 [] = 0xFFFF#16 ∧ crc16 [0x00#8] = 0x40BF#16 ∧ crc16 [0xFF#8] = 0x00FF#16
    ∧ crc16 [0x19#8, 0x03#8, 0x00#8, 0x02#8, 0x00#8, 0x02#8] = 0x1366#16

/-- A table-driven CRC gives the bit-shift CRC on every input. -/
def Obligations.TableDrivenCrcAgrees : Prop := ∀ bytes : List Byte, crc16ByTable bytes = crc16 bytes

/-- What the spec derives in R121 from the algorithm of R120: the residue of a frame with its trailer is 0, and any one
bit flipped, of the bytes or of the trailer, makes the recomputed CRC differ from the trailer. -/
def Obligations.CrcResidueAndSingleBit : Prop :=
  (∀ bytes : List Byte, crc16 (withTrailer bytes) = 0#16)
    ∧ ∀ (bytes : List Byte) (k j : Nat), k < bytes.length + 2 → j < 8 →
        crc16 ((flipBit (withTrailer bytes) k j).take bytes.length) ≠ trailerOf (flipBit (withTrailer bytes) k j)

/-! ### The commands -/

/-- R161: OPEN, while IDLE, in the order already open, address, PHY. `phyPresentNow` is the level of `phy_present` at this
OPEN (R8, R104); the model's own record of an announced level is left open here (log 5). -/
def Obligations.OpenOutcome : Prop :=
  ∀ s : State, s.phase = .idle → ∃ level : Option Bool,
    (s.opened = true → exec .openPort s
      = .next { s with done := true, err := false, lastOp := 1#4, errCode := 0#8, excCode := 0#8, phyLevel := level })
    ∧ (s.opened = false → ¬ (1 ≤ s.slaveAddr.toNat ∧ s.slaveAddr.toNat ≤ 247) → exec .openPort s
      = .next { s with done := true, err := true, lastOp := 1#4, errCode := 0x30#8, excCode := 0#8, phyLevel := level })
    ∧ (s.opened = false → 1 ≤ s.slaveAddr.toNat ∧ s.slaveAddr.toNat ≤ 247 → phyPresentNow s = false → exec .openPort s
      = .next { s with done := true, err := true, lastOp := 1#4, errCode := 0x01#8, excCode := 0#8, phyLevel := level })
    ∧ (s.opened = false → 1 ≤ s.slaveAddr.toNat ∧ s.slaveAddr.toNat ≤ 247 → phyPresentNow s = true → exec .openPort s
      = .next { s with opened := true, done := true, err := false, lastOp := 1#4, errCode := 0#8, excCode := 0#8,
                       phyLevel := level })

/-- R163: CLOSE, while IDLE, ends the session and always succeeds, open or not; while an exchange runs it is not accepted. -/
def Obligations.CloseOutcome : Prop :=
  (∀ s : State, s.phase = .idle → exec .closePort s
    = .next { s with opened := false, done := true, err := false, lastOp := 2#4, errCode := 0#8, excCode := 0#8 })
  ∧ ∀ s : State, s.phase ≠ .idle → exec .closePort s = .next { s with cmdRej := true }

/-- R122, R95: BUILD, while IDLE, writes the eight bytes of the request into TXBUF, sets TX_LEN to 8, and leaves every
other byte of the buffers and every other register; an address outside 1..247 is refused with nothing built. -/
def Obligations.BuildWritesRequest : Prop :=
  ∀ s : State, s.phase = .idle →
    (1 ≤ s.slaveAddr.toNat ∧ s.slaveAddr.toNat ≤ 247 → ∃ t : State, exec .build s = .next t
      ∧ t = { s with done := true, err := false, lastOp := 3#4, errCode := 0#8, excCode := 0#8, txLen := 8#4,
                     mem := t.mem }
      ∧ t.mem.read (txAddr 0) = some s.slaveAddr
      ∧ t.mem.read (txAddr 1) = some 0x03#8
      ∧ t.mem.read (txAddr 2) = some (s.startReg.extractLsb' 8 8)
      ∧ t.mem.read (txAddr 3) = some (s.startReg.extractLsb' 0 8)
      ∧ t.mem.read (txAddr 4) = some (s.regCount.extractLsb' 8 8)
      ∧ t.mem.read (txAddr 5) = some (s.regCount.extractLsb' 0 8)
      ∧ (let c := crc16 [s.slaveAddr, 0x03#8, s.startReg.extractLsb' 8 8, s.startReg.extractLsb' 0 8,
                         s.regCount.extractLsb' 8 8, s.regCount.extractLsb' 0 8]
         t.mem.read (txAddr 6) = some (c.extractLsb' 0 8) ∧ t.mem.read (txAddr 7) = some (c.extractLsb' 8 8))
      ∧ ∀ a : Nat, (∀ k : Nat, k < 8 → a ≠ txAddr k) → t.mem.read a = s.mem.read a)
    ∧ (¬ (1 ≤ s.slaveAddr.toNat ∧ s.slaveAddr.toNat ≤ 247) → exec .build s
      = .next { s with done := true, err := true, lastOp := 3#4, errCode := 0x30#8, excCode := 0#8 })

/-- R164: EXCHANGE at its accept step, while IDLE. -/
def Obligations.ExchangeAccept : Prop :=
  ∀ s : State, s.phase = .idle →
    (s.opened = false → exec .exchange s
      = .next { s with done := true, err := true, lastOp := 4#4, errCode := 0x04#8, excCode := 0#8 })
    ∧ (s.opened = true → s.txLen = 0#4 → exec .exchange s
      = .next { s with phase := .rx, done := false, err := false, lastOp := 4#4, errCode := 0#8, excCode := 0#8,
                       rxLen := 0#9, timer := 0#32, txIdx := 0 })
    ∧ (s.opened = true → s.txLen ≠ 0#4 → exec .exchange s
      = .next { s with phase := .tx, done := false, err := false, lastOp := 4#4, errCode := 0#8, excCode := 0#8,
                       rxLen := 0#9, timer := 0#32, txIdx := 0 })

/-- R230: XFER at its accept step, while IDLE: with a session open and an address in range it builds the request of the
present parameters and starts to send; otherwise TXBUF and TX_LEN are unchanged. -/
def Obligations.XferAccept : Prop :=
  ∀ s : State, s.phase = .idle →
    (s.opened = false → exec .xfer s
      = .next { s with done := true, err := true, lastOp := 8#4, errCode := 0x04#8, excCode := 0#8 })
    ∧ (s.opened = true → ¬ (1 ≤ s.slaveAddr.toNat ∧ s.slaveAddr.toNat ≤ 247) → exec .xfer s
      = .next { s with done := true, err := true, lastOp := 8#4, errCode := 0x30#8, excCode := 0#8 })
    ∧ (s.opened = true → 1 ≤ s.slaveAddr.toNat ∧ s.slaveAddr.toNat ≤ 247 → ∃ t : State, exec .xfer s = .next t
      ∧ t = { s with phase := .tx, done := false, err := false, lastOp := 8#4, errCode := 0#8, excCode := 0#8,
                     txLen := 8#4, rxLen := 0#9, timer := 0#32, txIdx := 0, mem := t.mem }
      ∧ (let body := [s.slaveAddr, 0x03#8, s.startReg.extractLsb' 8 8, s.startReg.extractLsb' 0 8,
                      s.regCount.extractLsb' 8 8, s.regCount.extractLsb' 0 8]
         ∀ k : Nat, k < 8 → t.mem.read (txAddr k) = (withTrailer body)[k]?)
      ∧ ∀ a : Nat, (∀ k : Nat, k < 8 → a ≠ txAddr k) → t.mem.read a = s.mem.read a)

/-- R124: PARSE makes its six checks in order; the first that fails gives the error, REG_N = 0 and nothing else, and
CRC_RESULT is the recomputed CRC from check (2) on. A frame that passes them all gives REGVAL[0..n), REG_N and RESP_HDR,
and leaves every other byte of the buffers. This holds of the command PARSE, from `u`, the accepted state, and of PARSE in
any running command, as at the end of an XFER, where nothing is reported yet and LAST_OP stays. An entry's storage is the
two bytes from its offset; their order (log 11) is not said. RX_LEN is at most 260 (R42, an invariant). -/
def Obligations.ParseOutcome : Prop :=
  let outcome (result : Result) (u : State) : Prop :=
    let len := u.rxLen.toNat
    let n := u.regCount.toNat
    let c := crc16 ((List.range (len - 2)).map (rxBuf u))
    let crcOk : Prop := c = rxBuf u (len - 1) ++ rxBuf u (len - 2)
    let fails (code exc : Byte) (crc : Half) : Prop := result
      = .next { u with phase := .idle, done := true, err := true, errCode := code, excCode := exc, regN := 0#8,
                       crcResult := crc }
    (len < 5 → fails 0x14#8 0#8 u.crcResult)
    ∧ (5 ≤ len → ¬ crcOk → fails 0x10#8 0#8 c)
    ∧ (5 ≤ len → crcOk → rxBuf u 0 ≠ u.slaveAddr → fails 0x11#8 0#8 c)
    ∧ (5 ≤ len → crcOk → rxBuf u 0 = u.slaveAddr → (rxBuf u 1).getLsbD 7 = true → fails 0x12#8 (rxBuf u 2) c)
    ∧ (5 ≤ len → crcOk → rxBuf u 0 = u.slaveAddr → (rxBuf u 1).getLsbD 7 = false → (rxBuf u 2).toNat ≠ 2 * n →
       fails 0x13#8 0#8 c)
    ∧ (5 ≤ len → crcOk → rxBuf u 0 = u.slaveAddr → (rxBuf u 1).getLsbD 7 = false → (rxBuf u 2).toNat = 2 * n →
       len < 5 + 2 * n → fails 0x14#8 0#8 c)
    ∧ (5 ≤ len → crcOk → rxBuf u 0 = u.slaveAddr → (rxBuf u 1).getLsbD 7 = false → (rxBuf u 2).toNat = 2 * n →
       5 + 2 * n ≤ len → ∃ t : State, result = .next t
        ∧ t = { u with phase := .idle, done := true, err := false, errCode := 0#8, excCode := 0#8, crcResult := c,
                       regN := u.regCount.extractLsb' 0 8, respHdr := rxBuf u 2 ++ rxBuf u 1 ++ rxBuf u 0,
                       mem := t.mem }
        ∧ (∀ i : Nat, i < n → regVal t i = rxBuf u (3 + 2 * i) ++ rxBuf u (4 + 2 * i)
            ∧ (t.mem.read (regValAddr i)).isSome = true ∧ (t.mem.read (regValAddr i + 1)).isSome = true)
        ∧ ∀ a : Nat, (∀ i : Nat, i < n → a ≠ regValAddr i ∧ a ≠ regValAddr i + 1) → t.mem.read a = u.mem.read a)
  (∀ s : State, s.phase = .idle → s.rxLen.toNat ≤ 260 →
    outcome (exec .parse s) { s with done := false, err := false, lastOp := 5#4, errCode := 0#8, excCode := 0#8 })
  ∧ ∀ s : State, s.rxLen.toNat ≤ 260 → s.errCode = 0#8 → s.excCode = 0#8 → outcome (parseBody s) s

/-- A register count of 128 or more never parses: the byte count cannot match it (the spec's own derivation, in R127). -/
def Obligations.CountsAbove127NeverParse : Prop :=
  ∀ s t : State, s.phase = .idle → 128 ≤ s.regCount.toNat → exec .parse s = .next t →
    t.err = true ∧ t.errCode ≠ 0#8 ∧ t.regN = 0#8 ∧ t.mem = s.mem ∧ t.respHdr = s.respHdr

/-- R210: DECODE, while IDLE, joins REGVAL[0] and REGVAL[1] into FLOAT_RESULT when REG_N is 2, and otherwise fails. -/
def Obligations.DecodeOutcome : Prop :=
  ∀ s : State, s.phase = .idle →
    (s.regN ≠ 2#8 → exec .decode s
      = .next { s with done := true, err := true, lastOp := 6#4, errCode := 0x20#8, excCode := 0#8 })
    ∧ (s.regN = 2#8 → exec .decode s
      = .next { s with done := true, err := false, lastOp := 6#4, errCode := 0#8, excCode := 0#8,
                       floatResult := regVal s 0 ++ regVal s 1 })

/-- R130: CRC, while IDLE, over RXBUF[0..RX_LEN). RX_LEN is at most 260 (R42, an invariant). -/
def Obligations.CrcOutcome : Prop :=
  ∀ s : State, s.phase = .idle → s.rxLen.toNat ≤ 260 → exec .crc s
    = .next { s with done := true, err := false, lastOp := 7#4, errCode := 0#8, excCode := 0#8,
                     crcResult := crc16 ((List.range s.rxLen.toNat).map (rxBuf s)) }

/-- The atomic commands finish in their own step (R66): BUSY stays 0 and DONE is 1 in the next state. -/
def Obligations.AtomicCommandsFinishInTheirStep : Prop :=
  ∀ (i : Instr) (s : State), atomicCommand i = true → s.phase = .idle → s.rxLen.toNat ≤ 260 →
    ∃ t : State, exec i s = .next t ∧ t.phase = .idle ∧ t.done = true ∧ t.err = decide (t.errCode ≠ 0#8)

/-- PARSE gives back the registers a sound response was built from (the spec's own derivation, in R128). -/
def Obligations.ParseRoundTrip : Prop :=
  ∀ (s : State) (values : List Half), s.phase = .idle → 1 ≤ s.slaveAddr.toNat ∧ s.slaveAddr.toNat ≤ 247 →
    values.length ≤ 127 → s.regCount.toNat = values.length → s.rxLen.toNat = 5 + 2 * values.length →
    (List.range s.rxLen.toNat).map (rxBuf s) = withTrailer (responseBody s.slaveAddr values) →
    ∃ t : State, exec .parse s = .next t ∧ t.err = false ∧ t.errCode = 0#8 ∧ t.regN.toNat = values.length
      ∧ (List.range values.length).map (regVal t) = values

/-- A frame of at least 5 bytes on which the CRC check passes, with any one bit flipped, is a CRC_MISMATCH (the spec's own
derivation, in R129). -/
def Obligations.SingleBitFlipIsCrcMismatch : Prop :=
  ∀ (s : State) (k j : Nat), s.phase = .idle → 5 ≤ s.rxLen.toNat → s.rxLen.toNat ≤ 260 →
    crc16 ((List.range (s.rxLen.toNat - 2)).map (rxBuf s)) = rxBuf s (s.rxLen.toNat - 1) ++ rxBuf s (s.rxLen.toNat - 2) →
    k < s.rxLen.toNat → j < 8 →
    ∃ t : State, exec .parse { s with mem := s.mem.write (rxAddr k) (rxBuf s k ^^^ (1#8 <<< j)) } = .next t
      ∧ t.err = true ∧ t.errCode = 0x10#8 ∧ t.regN = 0#8

/-! ### The wire frames -/

/-- The request the block has on offer, all of it still to send, leaves byte by byte in index order (R165, R68), one
TxAccept a step (R13), and the block then receives. That the frame is one instruction whose later events stand in the
script, and the draw counted for each, is the model's choice (logs 2, 3, 6). -/
def Obligations.RequestOnOfferIsSent : Prop :=
  ∀ (s : State) (slave : Byte) (start count check : Half),
    s.phase = .tx → s.txIdx = 0 → s.txLen = 8#4 →
    (∀ k : Nat, k < 8 → s.mem.read (txAddr k) = (requestFrame slave start count check)[k]?) →
    ∃ t : State, exec (.reqReadHolding slave start count check) s = .next t
      ∧ t = { s with txIdx := 1, wireOut := s.wireOut ++ [slave], draws := s.draws + 1,
                     input := List.replicate 7 (.event .txAccept) ++ s.input }
      ∧ Host.Core.run Sys2Proof.core 7 t
        = .next { s with phase := .rx, txIdx := 8, wireOut := s.wireOut ++ requestFrame slave start count check,
                         draws := s.draws + 8 }

/-- A frame whose bytes arrive outside the RX phase is dropped (R171), one byte a step (R13): nothing of the block changes.
For a request that says it is not the one on offer. That the frame is one instruction whose later bytes stand in the script,
and the draw counted for each, is the model's choice (logs 2, 3, 6). -/
def Obligations.FramesOutsideReceptionAreDropped : Prop :=
  (∀ (s : State) (slave : Byte) (func : BitVec 7) (byteCount : Byte) (payload : List Byte) (check : Half),
    s.phase ≠ .rx → ∃ t : State, exec (.respReadHolding slave func byteCount payload check) s = .next t
      ∧ t = { s with draws := s.draws + 1, input := t.input }
      ∧ Host.Core.run Sys2Proof.core (payload.length + 4) t = .next { s with draws := s.draws + (payload.length + 5) })
  ∧ (∀ (s : State) (slave : Byte) (func : BitVec 7) (code : Byte) (check : Half),
    s.phase ≠ .rx → ∃ t : State, exec (.respException slave func code check) s = .next t
      ∧ t = { s with draws := s.draws + 1, input := t.input }
      ∧ Host.Core.run Sys2Proof.core 4 t = .next { s with draws := s.draws + 5 })
  ∧ (∀ (s : State) (slave : Byte) (start count check : Half),
    s.phase ≠ .rx → offersFrame s (requestFrame slave start count check) = false →
      ∃ t : State, exec (.reqReadHolding slave start count check) s = .next t
        ∧ t = { s with draws := s.draws + 1, input := t.input }
        ∧ Host.Core.run Sys2Proof.core 7 t = .next { s with draws := s.draws + 8 })

/-- A whole response received by an EXCHANGE, one byte a step (R13), ends it without an error and without a look at its
contents (R168, R169, R175): RXBUF holds the frame, RX_LEN its length. That the frame is one instruction whose later bytes
stand in the script, and the draw counted for each, is the model's choice (logs 2, 6). -/
def Obligations.ResponseEndsExchange : Prop :=
  ∀ (s : State) (i : Instr) (bytes : List Byte), encode i = .frame .response bytes → i.lengthsAgree = true →
    s.phase = .rx → s.rxLen = 0#9 → s.lastOp = 4#4 → s.errCode = 0#8 →
    ∃ u t : State, exec i s = .next u ∧ firstByteReceived bytes s u
      ∧ Host.Core.run Sys2Proof.core (bytes.length - 1) u = .next t
      ∧ t = { s with phase := .idle, done := true, err := false, rxLen := BitVec.ofNat 9 bytes.length,
                     draws := s.draws + bytes.length, mem := t.mem }
      ∧ (∀ k : Nat, k < bytes.length → t.mem.read (rxAddr k) = bytes[k]?)
      ∧ ∀ a : Nat, (∀ k : Nat, k < bytes.length → a ≠ rxAddr k) → t.mem.read a = s.mem.read a

/-- A whole sound response from the slave addressed, with as many registers as asked for, ends an XFER with the
registers parsed out (R124, R231): the wire side of the round trip. Any function byte without bit 7 will do (R99).
Its bytes arrive one a step (R13). That the frame is one instruction whose later bytes stand in the script, and the draw
counted for each, is the model's choice (logs 2, 6). -/
def Obligations.SoundResponseEndsXfer : Prop :=
  ∀ (s : State) (values : List Half) (func : BitVec 7),
    s.phase = .rx → s.rxLen = 0#9 → s.lastOp = 8#4 → s.errCode = 0#8 →
    values.length ≤ 127 → s.regCount.toNat = values.length →
    let body := s.slaveAddr :: (0#1 ++ func) :: BitVec.ofNat 8 (2 * values.length) :: payloadBytes values
    ∃ u t : State,
      exec (.respReadHolding s.slaveAddr func (BitVec.ofNat 8 (2 * values.length)) (payloadBytes values) (crc16 body)) s
        = .next u
      ∧ firstByteReceived (withTrailer body) s u
      ∧ Host.Core.run Sys2Proof.core (4 + 2 * values.length) u = .next t
      ∧ t = { s with phase := .idle, done := true, err := false, rxLen := BitVec.ofNat 9 (5 + 2 * values.length),
                     draws := s.draws + (5 + 2 * values.length), crcResult := crc16 body,
                     regN := BitVec.ofNat 8 values.length,
                     respHdr := BitVec.ofNat 8 (2 * values.length) ++ (0#1 ++ func) ++ s.slaveAddr, mem := t.mem }
      ∧ (List.range values.length).map (regVal t) = values
      ∧ (∀ k : Nat, k < 5 + 2 * values.length → t.mem.read (rxAddr k) = (withTrailer body)[k]?)
      ∧ ∀ a : Nat, (∀ k : Nat, k < 5 + 2 * values.length → a ≠ rxAddr k) →
          (∀ k : Nat, k < values.length → a ≠ regValAddr k ∧ a ≠ regValAddr k + 1) → t.mem.read a = s.mem.read a

/-- A sound exception frame from the slave addressed ends an XFER with EXCEPTION_RESPONSE and its exception code
(R99, R124, R231). Its bytes arrive one a step (R13). That the frame is one instruction whose later bytes stand in the
script, and the draw counted for each, is the model's choice (logs 2, 6). -/
def Obligations.ExceptionEndsXfer : Prop :=
  ∀ (s : State) (func : BitVec 7) (code : Byte),
    s.phase = .rx → s.rxLen = 0#9 → s.lastOp = 8#4 →
    let body := [s.slaveAddr, 1#1 ++ func, code]
    ∃ u t : State, exec (.respException s.slaveAddr func code (crc16 body)) s = .next u
      ∧ firstByteReceived (withTrailer body) s u ∧ Host.Core.run Sys2Proof.core 4 u = .next t
      ∧ t = { s with phase := .idle, done := true, err := true, errCode := 0x12#8, excCode := code, regN := 0#8,
                     rxLen := 5#9, crcResult := crc16 body, draws := s.draws + 5, mem := t.mem }
      ∧ (∀ k : Nat, k < 5 → t.mem.read (rxAddr k) = (withTrailer body)[k]?)
      ∧ ∀ a : Nat, (∀ k : Nat, k < 5 → a ≠ rxAddr k) → t.mem.read a = s.mem.read a

/-- A frame in the script is its bytes, each an RxByte event with a step of its own (R13, R104); the request the block has on
offer is its TxAccepts. That a frame is one item, and which request it is that leaves, is the model's choice (logs 2, 3). -/
def Obligations.FrameIsItsBytesInOrder : Prop :=
  (∀ (s : State) (rest : List Input) (kind : FrameKind) (bytes : List Byte),
    (kind = .request → offersFrame s bytes = false) →
    step { s with input := .frame kind bytes :: rest }
      = step { s with input := bytes.map (fun b => .event (.rxByte b false)) ++ rest })
  ∧ ∀ (s : State) (rest : List Input) (bytes : List Byte) (i : Instr),
    decode (.frame .request bytes) = .ok i → offersFrame s bytes = true →
    step { s with input := .frame .request bytes :: rest }
      = step { s with input := List.replicate bytes.length (.event .txAccept) ++ rest }

/-! ### The events of an exchange -/

/-- In the TX phase the byte on offer is TXBUF[tx_idx]; a TxAccept takes it, and after the last one reception starts
(R165, R55, R19). -/
def Obligations.TxAcceptTakesByteOnOffer : Prop :=
  ∀ (s : State) (b : Byte), s.phase = .tx → s.txIdx < s.txLen.toNat → s.mem.read (txAddr s.txIdx) = some b →
    txValid s = true ∧ txData s = b
    ∧ txAccept s = .next { s with wireOut := s.wireOut ++ [b], txIdx := s.txIdx + 1,
                                  phase := if s.txIdx + 1 = s.txLen.toNat then .rx else .tx }

/-- R167: outside the TX phase TxAccept and TxError have no effect. In it, a TxError ends the exchange with IO_ERROR; REG_N
stays, or is 0 if the exchange is an XFER (which of the two: FailureGivesNoResult, log 24). -/
def Obligations.TxErrorAndIdleTxSignals : Prop :=
  (∀ s : State, s.phase = .tx → ∃ regN : Byte, (regN = s.regN ∨ (s.lastOp = 8#4 ∧ regN = 0#8)) ∧ txError s
    = .next { s with phase := .idle, done := true, err := true, errCode := 0x03#8, regN := regN })
  ∧ ∀ s : State, s.phase ≠ .tx → txAccept s = .next s ∧ txError s = .next s

/-- R169: when a frame is complete. In the RX phase a byte without error is stored at RXBUF[RX_LEN] and counted (R168);
when the frame is complete, an EXCHANGE finishes and an XFER runs PARSE, in the same step (R175). -/
def Obligations.RxByteIsAssembled : Prop :=
  ∀ (s : State) (b : Byte), s.phase = .rx → s.rxLen.toNat < 260 →
    let t : State := { s with mem := s.mem.write (rxAddr s.rxLen.toNat) b, rxLen := BitVec.ofNat 9 (s.rxLen.toNat + 1) }
    let len := s.rxLen.toNat + 1
    let complete : Prop := (2 ≤ len ∧ (rxBuf t 1).getLsbD 7 = true ∧ len = 5)
      ∨ (3 ≤ len ∧ (rxBuf t 1).getLsbD 7 = false ∧ len = 5 + (rxBuf t 2).toNat)
    (¬ complete → rxByte b false s = .next t)
    ∧ (complete → s.lastOp = 8#4 → rxByte b false s = parseBody t)
    ∧ (complete → s.lastOp ≠ 8#4 → rxByte b false s
        = .next { t with phase := .idle, done := true, err := decide (s.errCode ≠ 0#8) })

/-- R170, R171: a byte with an error ends the exchange with IO_ERROR and is not stored; a byte outside the RX phase is
dropped, whatever its error bit. After the error REG_N stays, or is 0 if the exchange is an XFER (which of the two:
FailureGivesNoResult, log 24). -/
def Obligations.RxErrorAndStrayBytes : Prop :=
  (∀ (s : State) (b : Byte), s.phase = .rx → ∃ regN : Byte,
    (regN = s.regN ∨ (s.lastOp = 8#4 ∧ regN = 0#8)) ∧ rxByte b true s
    = .next { s with phase := .idle, done := true, err := true, errCode := 0x03#8, regN := regN })
  ∧ ∀ (s : State) (b : Byte) (err : Bool), s.phase ≠ .rx → rxByte b err s = .next s

/-- R173: while IDLE a Tick has no effect. While an exchange runs it counts, and raises TIMEOUT when the window has
elapsed (R172). After a timeout REG_N stays, or is 0 if the exchange is an XFER (which of the two: FailureGivesNoResult,
log 24). -/
def Obligations.TickCountsAndTimesOut : Prop :=
  (∀ s : State, s.phase ≠ .idle → s.timer + 1#32 ≠ s.timeoutTicks → tick s = .next { s with timer := s.timer + 1#32 })
  ∧ (∀ s : State, s.phase ≠ .idle → s.timer + 1#32 = s.timeoutTicks →
      ∃ regN : Byte, (regN = s.regN ∨ (s.lastOp = 8#4 ∧ regN = 0#8)) ∧ tick s
        = .next { s with timer := s.timeoutTicks, phase := .idle, done := true, err := true, errCode := 0x02#8,
                         regN := regN })
  ∧ ∀ s : State, s.phase = .idle → tick s = .next s

/-- After a timeout the session, RX_LEN and RXBUF are as they were, TIMER is T_RESP_TICKS, ERROR is TIMEOUT; bytes that
come later are dropped; and the next EXCHANGE or XFER starts afresh (the spec's own derivation, in R174). -/
def Obligations.SessionSurvivesTimeout : Prop :=
  ∀ s : State, BlockInv s → s.phase ≠ .idle → s.timer + 1#32 = s.timeoutTicks →
    ∃ t : State, tick s = .next t
      ∧ t.opened = s.opened ∧ t.rxLen = s.rxLen ∧ t.mem = s.mem ∧ t.timer = s.timeoutTicks ∧ t.errCode = 0x02#8
      ∧ t.done = true ∧ t.err = true
      ∧ (∀ (late : Byte) (err : Bool), rxByte late err t = .next t)
      ∧ (∃ u : State, exec .exchange t = .next u ∧ u.phase ≠ .idle ∧ u.rxLen = 0#9 ∧ u.timer = 0#32)
      ∧ ∃ u : State, exec .xfer t = .next u ∧ u.phase = .tx ∧ u.rxLen = 0#9 ∧ u.timer = 0#32

/-! ### The host window -/

/-- Which aligned words of the window hold a register, and that each register is found at its own offset (R23, R63). -/
def Obligations.MappedOffsets : Prop :=
  (∀ offset : BitVec 12, (admitted offset 4#3).isSome = true ↔ offset.toNat % 4 = 0 ∧
    (offset.toNat ≤ 0x038 ∨ (0x100 ≤ offset.toNat ∧ offset.toNat ≤ 0x11C)
      ∨ (0x200 ≤ offset.toNat ∧ offset.toNat ≤ 0x3F8) ∨ (0x400 ≤ offset.toNat ∧ offset.toNat ≤ 0x80C)))
  ∧ ∀ r : Reg, admitted (BitVec.ofNat 12 (regOffset r)) 4#3 = some r

/-- R62, R63: an access is admitted exactly when its size is 4 and its offset aligned and mapped; any other gets the
error response, with data 0 for a read, and changes nothing else. -/
def Obligations.UnadmittedAccessIsAnError : Prop :=
  ∀ (s : State) (offset : BitVec 12) (size : BitVec 3) (v : Word),
    let admissible : Prop := size = 4#3 ∧ offset.toNat % 4 = 0 ∧
      (offset.toNat ≤ 0x038 ∨ (0x100 ≤ offset.toNat ∧ offset.toNat ≤ 0x11C)
        ∨ (0x200 ≤ offset.toNat ∧ offset.toNat ≤ 0x3F8) ∨ (0x400 ≤ offset.toNat ∧ offset.toNat ≤ 0x80C))
    (admissible → (hostRead offset size s).bus.err = false)
    ∧ (¬ admissible → hostRead offset size s = { s with bus := ⟨true, 0#32⟩ }
        ∧ ∃ data, hostWrite offset size v s = .next { s with bus := ⟨true, data⟩ })

/-- A host read answers with the register, zero-extended (R64), and changes nothing else (R67); CMD reads 0 (R24). -/
def Obligations.HostReadAnswers : Prop :=
  ∀ (s : State) (r : Reg), ∃ v : Word,
    hostRead (BitVec.ofNat 12 (regOffset r)) 4#3 s = { s with bus := ⟨false, v⟩ }
    ∧ (r = .cmd → v = 0#32)
    ∧ (r = .status → v = statusWord s)
    ∧ (r = .error → v.toNat = s.excCode.toNat * 256 + s.errCode.toNat)
    ∧ (r = .slaveAddr → v.toNat = s.slaveAddr.toNat)
    ∧ (r = .startReg → v.toNat = s.startReg.toNat)
    ∧ (r = .regCount → v.toNat = s.regCount.toNat)
    ∧ (r = .lineCfg → v = 0x06804B00#32)
    ∧ (r = .timeoutTicks → v = s.timeoutTicks)
    ∧ (r = .timer → v = s.timer)
    ∧ (r = .txLen → v.toNat = s.txLen.toNat)
    ∧ (r = .rxLen → v.toNat = s.rxLen.toNat)
    ∧ (r = .crcResult → v.toNat = s.crcResult.toNat)
    ∧ (r = .respHdr → v.toNat = s.respHdr.toNat)
    ∧ (r = .regN → v.toNat = s.regN.toNat)
    ∧ (r = .floatResult → v = s.floatResult)
    ∧ (∀ i, r = .txBuf i → ∀ b, s.mem.read (txAddr i.val) = some b → v.toNat = b.toNat)
    ∧ (∀ i, r = .rxBuf i → ∀ b, s.mem.read (rxAddr i.val) = some b → v.toNat = b.toNat)
    ∧ (∀ i, r = .regVal i → v.toNat = (regVal s i.val).toNat)

/-- A buffer entry nothing has written reads as a draw of the event that reads it, any value at all (R51; the counter
of draws is the model's, log 6). -/
def Obligations.UnwrittenEntryReadsAsDraw : Prop :=
  ∀ s : State,
    let draw (a : Nat) : Byte := Config.freeByte (s.draws + 1) a
    let read (r : Reg) := handleEvent (.hostRead (BitVec.ofNat 12 (regOffset r)) 4#3) s
    (∀ i : Fin 8, s.mem.read (txAddr i.val) = none → read (.txBuf i)
      = .next { s with draws := s.draws + 1, bus := ⟨false, (draw (txAddr i.val)).zeroExtend 32⟩ })
    ∧ (∀ i : Fin 127, s.mem.read (regValAddr i.val) = none → s.mem.read (regValAddr i.val + 1) = none → read (.regVal i)
      = .next { s with draws := s.draws + 1,
                       bus := ⟨false, (draw (regValAddr i.val + 1) ++ draw (regValAddr i.val)).zeroExtend 32⟩ })
    ∧ ∀ i : Fin 260, s.mem.read (rxAddr i.val) = none → read (.rxBuf i)
      = .next { s with draws := s.draws + 1, bus := ⟨false, (draw (rxAddr i.val)).zeroExtend 32⟩ }

/-- R56: a locked write is ignored: it has no effect, no error response and sets no flag. -/
def Obligations.LockedWritesAreIgnored : Prop :=
  ∀ (s : State) (r : Reg) (v : Word),
    ((s.phase ≠ .idle ∧ (r = .slaveAddr ∨ r = .startReg ∨ r = .regCount ∨ r = .rxLen ∨ r = .regN
        ∨ (∃ i, r = .rxBuf i) ∨ ∃ i, r = .regVal i))
      ∨ (s.opened = true ∧ r = .slaveAddr)) →
    ∃ data, hostWrite (BitVec.ofNat 12 (regOffset r)) 4#3 v s = .next { s with bus := ⟨false, data⟩ }

/-- A write to a read-only register is admitted and ignored (R67). -/
def Obligations.ReadOnlyWritesAreIgnored : Prop :=
  ∀ (s : State) (r : Reg) (v : Word),
    (r = .error ∨ r = .lineCfg ∨ r = .timeoutTicks ∨ r = .timer ∨ r = .txLen ∨ r = .crcResult ∨ r = .respHdr
      ∨ r = .floatResult ∨ ∃ i, r = .txBuf i) →
    ∃ data, hostWrite (BitVec.ofNat 12 (regOffset r)) 4#3 v s = .next { s with bus := ⟨false, data⟩ }

/-- An unlocked write stores the low bits (R64); RX_LEN above 260 and REG_N above 127 are ignored whole (R42, R46);
STATUS clears CMD_REJ on bit 4, and does nothing else, whatever the block is doing (R25). That `bus_rdata` stays is the
model's choice (log 9), and so is which byte of a REGVAL entry is stored lower (log 11). -/
def Obligations.HostWriteStores : Prop :=
  ∀ (s : State) (v : Word),
    let u : State := { s with bus := ⟨false, s.bus.rdata⟩ }
    let write (r : Reg) := hostWrite (BitVec.ofNat 12 (regOffset r)) 4#3 v s
    (write .status = .next (if v.getLsbD 4 then { u with cmdRej := false } else u))
    ∧ (s.phase = .idle → s.opened = false → write .slaveAddr = .next { u with slaveAddr := v.extractLsb' 0 8 })
    ∧ (s.phase = .idle → write .startReg = .next { u with startReg := v.extractLsb' 0 16 })
    ∧ (s.phase = .idle → write .regCount = .next { u with regCount := v.extractLsb' 0 16 })
    ∧ (s.phase = .idle → v.toNat ≤ 260 → write .rxLen = .next { u with rxLen := BitVec.ofNat 9 v.toNat })
    ∧ (s.phase = .idle → 260 < v.toNat → write .rxLen = .next u)
    ∧ (s.phase = .idle → v.toNat ≤ 127 → write .regN = .next { u with regN := BitVec.ofNat 8 v.toNat })
    ∧ (s.phase = .idle → 127 < v.toNat → write .regN = .next u)
    ∧ (∀ i : Fin 260, s.phase = .idle → ∃ t : State, write (.rxBuf i) = .next t ∧ t = { u with mem := t.mem }
        ∧ t.mem.read (rxAddr i.val) = some (v.extractLsb' 0 8)
        ∧ ∀ a : Nat, a ≠ rxAddr i.val → t.mem.read a = s.mem.read a)
    ∧ (∀ i : Fin 127, s.phase = .idle → ∃ t : State, write (.regVal i) = .next t ∧ t = { u with mem := t.mem }
        ∧ t.mem.read (regValAddr i.val + 1) = some (v.extractLsb' 8 8)
        ∧ t.mem.read (regValAddr i.val) = some (v.extractLsb' 0 8)
        ∧ ∀ a : Nat, a ≠ regValAddr i.val → a ≠ regValAddr i.val + 1 → t.mem.read a = s.mem.read a)

/-- R25: the fields of the STATUS word, its reserved bits and its reset value; a write to it clears CMD_REJ when bit 4 is 1
and does nothing else, whatever the block is doing. -/
def Obligations.StatusWordFields : Prop :=
  (∀ s : State,
    ((statusWord s).getLsbD 0 = true ↔ s.phase ≠ .idle)
    ∧ (statusWord s).getLsbD 1 = s.opened
    ∧ (statusWord s).getLsbD 2 = s.done
    ∧ (statusWord s).getLsbD 3 = s.err
    ∧ (statusWord s).getLsbD 4 = s.cmdRej
    ∧ (statusWord s).extractLsb' 5 3 = 0#3
    ∧ (statusWord s).extractLsb' 8 4 = s.lastOp
    ∧ (statusWord s).extractLsb' 12 2 = (match s.phase with | .idle => 0#2 | .tx => 1#2 | .rx => 2#2)
    ∧ (statusWord s).extractLsb' 14 18 = 0#18
    ∧ readReg s .status = statusWord s)
  ∧ statusWord State.reset = 0#32
  ∧ ∀ (s : State) (v : Word), ∃ data, hostWrite 0x004#12 4#3 v s
      = .next { s with bus := ⟨false, data⟩, cmdRej := s.cmdRej && !v.getLsbD 4 }

/-- R36: LINECFG reads 0x06804B00, made of the fixed line parameters, in every state; a write is ignored. -/
def Obligations.LineConfigurationIsFixed : Prop :=
  Config.lineCfg = 0x06804B00#32 ∧ Config.lineCfg.extractLsb' 0 20 = 19200#20 ∧ Config.lineCfg.extractLsb' 20 4 = 8#4
    ∧ Config.lineCfg.extractLsb' 24 2 = 2#2 ∧ Config.lineCfg.extractLsb' 26 2 = 1#2
    ∧ Config.lineCfg.extractLsb' 28 4 = 0#4
    ∧ (∀ s : State, hostRead 0x018#12 4#3 s = { s with bus := ⟨false, Config.lineCfg⟩ })
    ∧ ∀ (s : State) (v : Word), ∃ data, hostWrite 0x018#12 4#3 v s = .next { s with bus := ⟨false, data⟩ }

/-- By the value formula of R211 (general knowledge, log 20) the patterns of the worked values of R214 stand for 50 and for
13849395/16384 = 845.29998779296875: the spec's own derivation. -/
def Obligations.FloatWorkedValues : Prop :=
  floatValue 0x42480000#32 = .real 50 ∧ floatValue 0x44535333#32 = .real (13849395 / 16384)

/-! ### Reset and simultaneous events -/

/-- R280: every register has its reset value at power-up and after a Reset event, from any state, the constants too; and
whatever a rule or the host then reads of a buffer is a draw. -/
def Obligations.ResetSetsEveryRegister : Prop :=
  ∀ t : State, (t = State.reset ∨ ∃ s : State, s.timeoutTicks = Config.tRespTicks ∧ handleEvent .reset s = .next t) →
    t.phase = .idle ∧ t.txIdx = 0 ∧ statusWord t = 0#32 ∧ errorWord t = 0#32 ∧ t.slaveAddr = 0#8 ∧ t.startReg = 0#16
      ∧ t.regCount = 2#16 ∧ readReg t .lineCfg = 0x06804B00#32 ∧ t.timeoutTicks = Config.tRespTicks ∧ t.timer = 0#32
      ∧ t.txLen = 0#4 ∧ t.rxLen = 0#9 ∧ t.crcResult = 0#16 ∧ t.respHdr = 0#24 ∧ t.regN = 0#8 ∧ t.floatResult = 0#32
      ∧ ∀ a : Nat, peek t a = Config.freeByte t.draws a

/-- A Reset event always completes. It leaves TIMEOUT_TICKS, the bus answer and the model's own fields, and no buffer byte
counts as written after it: the model's choice (logs 7, 9). -/
def Obligations.ResetEventCompletes : Prop :=
  ∀ s : State, handleEvent .reset s
    = .next { State.reset with timeoutTicks := s.timeoutTicks, bus := s.bus, input := s.input, phyLevel := s.phyLevel,
                               draws := s.draws + 1, wireOut := s.wireOut }

/-- A Reset abandons an exchange (R281): nothing is reported, the session is closed, and what arrives later is
dropped. -/
def Obligations.ResetAbandonsExchange : Prop :=
  ∀ (s : State) (late : List Byte) (rest : List Input),
    s.input = .event .reset :: late.map (fun b => .event (.rxByte b false)) ++ rest →
    ∃ t : State, Host.Core.run Sys2Proof.core (late.length + 1) s = .next t ∧ t.input = rest
      ∧ t.phase = .idle ∧ t.done = false ∧ t.errCode = 0#8 ∧ t.opened = false ∧ t.rxLen = 0#9
      ∧ ∀ a : Nat, t.mem.read a = none

/-- R262, for a clock as one item (the model's choice, log 4). Reset discards the rest of its clock; else the events are
handled in the order TxAccept or TxError, RxByte, Tick, host access, each a step of its own on the state the one before
left. So a byte in the clock of the last TxAccept is received; and a byte that completes a frame in the clock of the timeout's
last tick wins, in an EXCHANGE and in an XFER, any CMD write in that clock is accepted, and a host read sees the finished
state. -/
def Obligations.SameClockOrder : Prop :=
  (∀ (c : Clock) (s : State) (rest : List Input), c.rst = true → s.input = .clock c :: rest →
      step s = handleEvent .reset { s with input := rest })
  ∧ (∀ (tx : Option TxSignal) (rx : Option (Byte × Bool)) (ticks : Bool) (host : Option HostAccess) (s : State)
        (rest : List Input),
      s.input = .clock ⟨false, tx, rx, ticks, host⟩ :: rest →
      step s = step { s with input :=
        (match tx with | none => [] | some .accept => [.event .txAccept] | some .error => [.event .txError])
          ++ (match rx with | none => [] | some (b, err) => [.event (.rxByte b err)])
          ++ (match ticks with | false => [] | true => [.event .tick])
          ++ (match host with
              | none => []
              | some (.write offset size v) => [.event (.hostWrite offset size v)]
              | some (.read offset size) => [.event (.hostRead offset size)])
          ++ rest })
  ∧ (∀ (s : State) (b : Byte) (rest : List Input), BlockInv s → s.phase = .tx → s.txIdx + 1 = s.txLen.toNat →
      s.input = .clock ⟨false, some .accept, some (b, false), false, none⟩ :: rest →
      ∃ t : State, Host.Core.run Sys2Proof.core 2 s = .next t ∧ t.input = rest
        ∧ t.phase = .rx ∧ t.rxLen = 1#9 ∧ t.mem.read (rxAddr 0) = some b)
  ∧ ∀ (s : State) (b : Byte) (rest : List Input), s.phase = .rx → s.lastOp = 4#4 ∨ s.lastOp = 8#4 → s.errCode = 0#8 →
      s.rxLen.toNat < 260 → s.timer + 1#32 = s.timeoutTicks →
      frameComplete (storeRxByte b { s with draws := s.draws + 1 }) (s.rxLen.toNat + 1) = true →
      let before (host : Option HostAccess) : State :=
        { s with input := .clock ⟨false, none, some (b, false), true, host⟩ :: rest }
      ∃ t : State, Host.Core.run Sys2Proof.core 2 (before none) = .next t ∧ t.input = rest
        ∧ t.phase = .idle ∧ t.done = true ∧ t.errCode ≠ 0x02#8 ∧ t.timer = s.timer
        ∧ t.rxLen.toNat = s.rxLen.toNat + 1 ∧ t.lastOp = s.lastOp ∧ (s.lastOp = 4#4 → t.err = false ∧ t.errCode = 0#8)
        ∧ (∀ w : Word, ∃ u : State,
            Host.Core.run Sys2Proof.core 3 (before (some (.write 0x000#12 4#3 w))) = .next u
              ∧ u.lastOp = w.extractLsb' 0 4 ∧ u.cmdRej = s.cmdRej)
        ∧ ∀ (offset : BitVec 12) (size : BitVec 3),
            Host.Core.run Sys2Proof.core 3 (before (some (.read offset size)))
              = .next (hostRead offset size { t with draws := t.draws + 1 })

/-! ### Rules of the whole machine -/

/-- The state after reset meets the invariant. -/
def Obligations.InvariantHoldsAtReset : Prop := BlockInv State.reset

/-- Every step from a state that meets the invariant leads to one that meets it. -/
def Obligations.EveryStepKeepsInvariant : Prop := ∀ s t : State, BlockInv s → step s = .next t → BlockInv t

/-- No step from a state that meets the invariant stops: every input has an effect (R45, R165, R168). -/
def Obligations.NoStepStops : Prop := ∀ s : State, BlockInv s → ∃ t : State, step s = .next t

/-- An exchange that has as many ticks still to come as its window has left, ends: within the events given, some step
leaves the block IDLE (the spec's own derivation, in R293). -/
def Obligations.EveryExchangeEnds : Prop :=
  ∀ (s : State) (events : List Event) (rest : List Input), BlockInv s →
    s.input = events.map Input.event ++ rest → s.timeoutTicks.toNat - s.timer.toNat ≤ events.count .tick →
    ∃ (k : Nat) (t : State), k ≤ events.length ∧ Host.Core.run Sys2Proof.core k s = .next t ∧ t.phase = .idle

/-- While IDLE, only a CMD write of EXCHANGE or of XFER makes the block BUSY (R26, R160), and only in an open session, as
both fail with NOT_OPEN else (R164, R230). -/
def Obligations.OnlyExchangesLeaveIdle : Prop :=
  ∀ (e : Event) (s t : State), s.phase = .idle → handleEvent e s = .next t → t.phase ≠ .idle →
    s.opened = true ∧ (e = .hostWrite 0x000#12 4#3 0x00000004#32 ∨ e = .hostWrite 0x000#12 4#3 0x00000008#32)

/-- R27: a successful OPEN sets STATUS.OPEN, CLOSE clears it, Reset clears it, and no other event changes it. -/
def Obligations.SessionFlagChanges : Prop :=
  (∀ (e : Event) (s t : State), handleEvent e s = .next t → t.opened ≠ s.opened →
    (t.opened = true ∧ e = .hostWrite 0x000#12 4#3 0x00000001#32 ∧ t.err = false)
      ∨ (t.opened = false ∧ (e = .hostWrite 0x000#12 4#3 0x00000002#32 ∨ e = .reset)))
  ∧ ∀ s t : State,
    (s.phase = .idle → handleEvent (.hostWrite 0x000#12 4#3 0x00000001#32) s = .next t → t.err = false → t.opened = true)
    ∧ (s.phase = .idle → handleEvent (.hostWrite 0x000#12 4#3 0x00000002#32) s = .next t → t.opened = false)
    ∧ (handleEvent .reset s = .next t → t.opened = false)

/-- R30: a CMD write while BUSY sets CMD_REJ; a STATUS write with bit 4 set and Reset clear it; and no other event changes
it. -/
def Obligations.RejectFlagChanges : Prop :=
  (∀ (e : Event) (s t : State), handleEvent e s = .next t → t.cmdRej ≠ s.cmdRej →
    (t.cmdRej = true ∧ s.phase ≠ .idle ∧ ∃ w, e = .hostWrite 0x000#12 4#3 w)
      ∨ (t.cmdRej = false ∧ (e = .reset ∨ ∃ v : Word, v.getLsbD 4 = true ∧ e = .hostWrite 0x004#12 4#3 v)))
  ∧ ∀ (s t : State) (v : Word),
    (s.phase ≠ .idle → handleEvent (.hostWrite 0x000#12 4#3 v) s = .next t → t.cmdRej = true)
    ∧ (v.getLsbD 4 = true → handleEvent (.hostWrite 0x004#12 4#3 v) s = .next t → t.cmdRej = false)
    ∧ (handleEvent .reset s = .next t → t.cmdRej = false)

/-- The identity is fixed for the lifetime of a session (R162): an event that leaves the session open leaves SLAVE_ADDR. -/
def Obligations.AddressFixedInSession : Prop :=
  ∀ (e : Event) (s t : State), s.opened = true → handleEvent e s = .next t → t.opened = true →
    t.slaveAddr = s.slaveAddr

/-- R39: TIMEOUT_TICKS is T_RESP_TICKS at reset, no step changes it, a read shows it, and a write is ignored. -/
def Obligations.TimeoutWindowIsConstant : Prop :=
  State.reset.timeoutTicks = Config.tRespTicks
  ∧ (∀ s t : State, step s = .next t → t.timeoutTicks = s.timeoutTicks)
  ∧ (∀ s : State, hostRead 0x01C#12 4#3 s = { s with bus := ⟨false, s.timeoutTicks⟩ })
  ∧ ∀ (s : State) (v : Word), ∃ data, hostWrite 0x01C#12 4#3 v s = .next { s with bus := ⟨false, data⟩ }

/-- TXBUF and TX_LEN are written by BUILD and XFER alone, and lost by Reset (R41, R48, R68). -/
def Obligations.RequestBufferWriters : Prop :=
  ∀ (e : Event) (s t : State), handleEvent e s = .next t →
    (t.txLen ≠ s.txLen ∨ ∃ k : Nat, k < 8 ∧ t.mem.read (txAddr k) ≠ s.mem.read (txAddr k)) →
    e = .reset ∨ e = .hostWrite 0x000#12 4#3 0x00000003#32 ∨ e = .hostWrite 0x000#12 4#3 0x00000008#32

/-- A command that fails produces no result (R252): FLOAT_RESULT, RESP_HDR and REGVAL are as before it, over an instruction
and over any event but a host write to REGVAL. REG_N is 0 when PARSE fails, the command or the end of an XFER, and is
unchanged when an XFER fails at its accept step. After TIMEOUT or IO_ERROR in an XFER REG_N is
unchanged (R46, R256): the model's choice where R252 says otherwise (log 24). -/
def Obligations.FailureGivesNoResult : Prop :=
  let noResult (s t : State) : Prop := t.floatResult = s.floatResult ∧ t.respHdr = s.respHdr
    ∧ ∀ k : Nat, k < 127 → t.mem.read (regValAddr k) = s.mem.read (regValAddr k)
        ∧ t.mem.read (regValAddr k + 1) = s.mem.read (regValAddr k + 1)
  (∀ (i : Instr) (s t : State), BlockInv s → exec i s = .next t → t.errCode ≠ 0#8 → noResult s t)
  ∧ (∀ (e : Event) (s t : State), BlockInv s → handleEvent e s = .next t → t.errCode ≠ 0#8 →
      (∀ (k : Fin 127) (offset : BitVec 12) (size : BitVec 3) (v : Word), e = .hostWrite offset size v →
        admitted offset size ≠ some (.regVal k)) →
      noResult s t)
  ∧ (∀ s t : State, s.phase = .idle → exec .parse s = .next t → t.errCode ≠ 0#8 → t.regN = 0#8)
  ∧ (∀ s t : State, s.phase = .idle → exec .xfer s = .next t → t.errCode ≠ 0#8 → t.regN = s.regN)
  ∧ ∀ (e : Event) (s t : State), BlockInv s → s.phase ≠ .idle → s.lastOp = 8#4 → handleEvent e s = .next t →
      t.errCode ≠ 0#8 → if t.errCode = 0x02#8 ∨ t.errCode = 0x03#8 then t.regN = s.regN else t.regN = 0#8
end

