-- ==== Sys2Proof/Laws/Bytes.lean ====
section
/-! SUPPORT. Splitting and joining: the bytes of a 16-bit value, the bits of a function byte, the fields of a word. -/

namespace Sys2Proof

open Machine

theorem getLsbD_joinBytes (hi lo : Byte) (i : Nat) :
    (joinBytes hi lo).getLsbD i = if i < 8 then lo.getLsbD i else hi.getLsbD (i - 8) := by
  unfold joinBytes
  rw [BitVec.getLsbD_append]

theorem getLsbD_hiByte (v : Half) (i : Nat) : (hiByte v).getLsbD i = (decide (i < 8) && v.getLsbD (8 + i)) := by
  unfold hiByte
  rw [BitVec.getLsbD_extractLsb']

theorem getLsbD_loByte (v : Half) (i : Nat) : (loByte v).getLsbD i = (decide (i < 8) && v.getLsbD i) := by
  unfold loByte
  rw [BitVec.getLsbD_extractLsb']
  simp

/-- A 16-bit value is its two bytes joined. -/
@[simp] theorem joinBytes_hi_lo (v : Half) : joinBytes (hiByte v) (loByte v) = v := by
  apply BitVec.eq_of_getLsbD_eq
  intro i hi
  rw [getLsbD_joinBytes, getLsbD_loByte, getLsbD_hiByte]
  by_cases h : i < 8
  · simp [h]
  · have h₁ : i - 8 < 8 := by omega
    have h₂ : 8 + (i - 8) = i := by omega
    simp [h, h₁, h₂]

@[simp] theorem loByte_joinBytes (hi lo : Byte) : loByte (joinBytes hi lo) = lo := by
  apply BitVec.eq_of_getLsbD_eq
  intro i h
  rw [getLsbD_loByte, getLsbD_joinBytes]
  simp [h]

@[simp] theorem hiByte_joinBytes (hi lo : Byte) : hiByte (joinBytes hi lo) = hi := by
  apply BitVec.eq_of_getLsbD_eq
  intro i h
  rw [getLsbD_hiByte, getLsbD_joinBytes]
  simp [h]

/-- The function byte of a normal response: bit 7 is 0, and the low bits are the field (R96). -/
theorem normalFunction (f : BitVec 7) : (0#1 ++ f).getLsbD 7 = false ∧ funcLow (0#1 ++ f) = f := by
  revert f; decide

/-- The function byte of an exception frame: bit 7 is 1, and the low bits are the field (R97). -/
theorem exceptionFunction (f : BitVec 7) : (1#1 ++ f).getLsbD 7 = true ∧ funcLow (1#1 ++ f) = f := by
  revert f; decide

/-- A function byte is its bit 7 and its low bits. -/
theorem functionByte (b : Byte) :
    (b.getLsbD 7 = true → 1#1 ++ funcLow b = b) ∧ (b.getLsbD 7 = false → 0#1 ++ funcLow b = b) := by
  revert b; decide

/-- A command word is its two fields (R91). -/
theorem commandWord (w : Word) : w = rsvField w ++ opField w := by
  apply BitVec.eq_of_getLsbD_eq
  intro i hi
  rw [BitVec.getLsbD_append]
  unfold rsvField opField
  rw [BitVec.getLsbD_extractLsb', BitVec.getLsbD_extractLsb']
  by_cases h : i < 4
  · simp [h]
  · have h₁ : i - 4 < 28 := by omega
    have h₂ : 4 + (i - 4) = i := by omega
    simp [h, h₁, h₂]

/-- The opcode map, with the OP field of each instruction (R94). -/
theorem opcodeOf_ok {op : BitVec 4} {i : Instr} (h : opcodeOf op = .ok i) :
    (op = 1#4 ∧ i = .openPort) ∨ (op = 2#4 ∧ i = .closePort) ∨ (op = 3#4 ∧ i = .build) ∨ (op = 4#4 ∧ i = .exchange)
      ∨ (op = 5#4 ∧ i = .parse) ∨ (op = 6#4 ∧ i = .decode) ∨ (op = 7#4 ∧ i = .crc) ∨ (op = 8#4 ∧ i = .xfer) := by
  unfold opcodeOf at h
  repeat' split at h
  all_goals first | (cases h; simp_all) | cases h

end Sys2Proof
end

