-- ==== Sys2Proof/Laws/Memory.lean ====
section
/-! SUPPORT. The storage of the buffers: a read after a write, and the canonical form kept by every write. -/

namespace Sys2Proof.Machine

@[simp] theorem Memory.read_nil (k : Nat) : Memory.read [] k = none := rfl

/-- A read after a write: the value at the offset written, and what was there at every other offset. -/
theorem Memory.read_write (m : Memory) (k : Nat) (v : Byte) (a : Nat) :
    (m.write k v).read a = if a = k then some v else m.read a := by
  induction m with
  | nil => simp [Memory.write, Memory.read]
  | cons c m ih =>
    obtain ⟨x, b⟩ := c
    simp only [Memory.write]
    by_cases h₁ : k < x
    · rw [if_pos h₁]
      simp only [Memory.read]
    · rw [if_neg h₁]
      by_cases h₂ : k = x
      · subst h₂
        rw [if_pos rfl]
        simp only [Memory.read]
        by_cases h₃ : a = k <;> simp [h₃]
      · rw [if_neg h₂]
        simp only [Memory.read, ih]
        by_cases h₃ : a = x
        · subst h₃
          rw [if_pos rfl, if_neg (fun h => h₂ h.symm), if_pos rfl]
        · rw [if_neg h₃, if_neg h₃]

@[simp] theorem Memory.read_write_same (m : Memory) (k : Nat) (v : Byte) : (m.write k v).read k = some v := by
  simp [Memory.read_write]

theorem Memory.read_write_other (m : Memory) {k a : Nat} (v : Byte) (h : a ≠ k) : (m.write k v).read a = m.read a := by
  simp [Memory.read_write, h]

/-- The canonical form of a list with a first cell: the rest is canonical and lies above it. -/
theorem Memory.wf_cons (a : Nat) (b : Byte) (m : Memory) :
    Memory.wf ((a, b) :: m) = true ↔ m.wf = true ∧ ∀ c ∈ m, a < c.1 := by
  induction m generalizing a b with
  | nil => simp [Memory.wf]
  | cons c m ih =>
    obtain ⟨x, y⟩ := c
    simp only [Memory.wf, Bool.and_eq_true, decide_eq_true_eq, List.mem_cons, forall_eq_or_imp]
    constructor
    · rintro ⟨h, hm⟩
      exact ⟨hm, h, fun c hc => lt_trans h (((ih x y).1 hm).2 c hc)⟩
    · rintro ⟨hm, h, -⟩
      exact ⟨h, hm⟩

/-- The offsets listed after a write are those before it and the one written. -/
theorem Memory.mem_write (m : Memory) (k : Nat) (v : Byte) : ∀ c ∈ m.write k v, c.1 = k ∨ c ∈ m := by
  induction m with
  | nil => simp [Memory.write]
  | cons d m ih =>
    obtain ⟨x, b⟩ := d
    intro c hc
    simp only [Memory.write] at hc
    split at hc
    · rcases List.mem_cons.1 hc with rfl | hc
      · exact .inl rfl
      · exact .inr hc
    · split at hc
      · rcases List.mem_cons.1 hc with rfl | hc
        · exact .inl rfl
        · exact .inr (List.mem_cons_of_mem _ hc)
      · rcases List.mem_cons.1 hc with rfl | hc
        · exact .inr List.mem_cons_self
        · exact (ih c hc).imp_right (List.mem_cons_of_mem _)

/-- A write keeps the canonical form. -/
theorem Memory.wf_write (m : Memory) (k : Nat) (v : Byte) (h : m.wf = true) : (m.write k v).wf = true := by
  induction m with
  | nil => rfl
  | cons d m ih =>
    obtain ⟨x, b⟩ := d
    obtain ⟨hm, hx⟩ := (Memory.wf_cons x b m).1 h
    simp only [Memory.write]
    split
    · rename_i hk
      refine (Memory.wf_cons _ _ _).2 ⟨h, ?_⟩
      intro c hc
      rcases List.mem_cons.1 hc with rfl | hc
      · exact hk
      · exact lt_trans hk (hx c hc)
    · split
      · rename_i hk
        subst hk
        exact (Memory.wf_cons _ _ _).2 ⟨hm, hx⟩
      · rename_i h₁ h₂
        refine (Memory.wf_cons _ _ _).2 ⟨ih hm, ?_⟩
        intro c hc
        rcases Memory.mem_write m k v c hc with rfl | hc
        · omega
        · exact hx c hc

/-- An offset is read as written exactly when a cell lists it. -/
theorem Memory.exists_of_read {m : Memory} {a : Nat} {b : Byte} (h : m.read a = some b) : (a, b) ∈ m := by
  induction m with
  | nil => simp at h
  | cons d m ih =>
    obtain ⟨x, y⟩ := d
    simp only [Memory.read] at h
    split at h
    · rename_i hx
      subst hx
      simp only [Option.some.injEq] at h
      subst h
      exact List.mem_cons_self
    · exact List.mem_cons_of_mem _ (ih h)

/-! The three buffers do not overlap. -/

theorem txAddr_ne (i j : Nat) (h : i ≠ j) : txAddr i ≠ txAddr j := by
  unfold txAddr; omega

theorem rxAddr_ne (i j : Nat) (h : i ≠ j) : rxAddr i ≠ rxAddr j := by
  unfold rxAddr; omega

/-- Writing TXBUF from index `i` on: entry `j` of the bytes lands at TXBUF[i + j], and nothing else changes. -/
theorem writeTxBuf_read (bs : List Byte) (m : Memory) (i a : Nat) :
    (writeTxBuf m i bs).read a
      = if txAddr i ≤ a ∧ (a - txAddr i) % 4 = 0 ∧ (a - txAddr i) / 4 < bs.length
        then bs[(a - txAddr i) / 4]? else m.read a := by
  induction bs generalizing m i with
  | nil => simp [writeTxBuf]
  | cons b bs ih =>
    rw [writeTxBuf, ih, Memory.read_write]
    have e : txAddr (i + 1) = txAddr i + 4 := by unfold txAddr; omega
    rw [e]
    by_cases h : txAddr i + 4 ≤ a
    · obtain ⟨d, rfl⟩ : ∃ d, a = txAddr i + 4 + d := ⟨a - (txAddr i + 4), by omega⟩
      have e₁ : txAddr i + 4 + d - (txAddr i + 4) = d := by omega
      have e₂ : txAddr i + 4 + d - txAddr i = d + 4 := by omega
      have e₃ : (d + 4) / 4 = d / 4 + 1 := by omega
      have e₄ : (d + 4) % 4 = d % 4 := by omega
      rw [e₁, e₂, e₃, e₄]
      have : ¬ (txAddr i + 4 + d = txAddr i) := by omega
      simp only [List.length_cons, List.getElem?_cons_succ, Nat.add_lt_add_iff_right, this, if_false]
      by_cases hc : d % 4 = 0 ∧ d / 4 < bs.length
      · rw [if_pos ⟨by omega, hc⟩, if_pos ⟨by omega, hc⟩]
      · rw [if_neg (fun x => hc x.2), if_neg (fun x => hc x.2)]
    · rw [if_neg (fun x => h x.1)]
      by_cases h' : a = txAddr i
      · subst h'
        simp
      · rw [if_neg h', if_neg]
        rintro ⟨h₁, h₂, -⟩
        omega

/-- Writing TXBUF keeps the canonical form. -/
theorem writeTxBuf_wf (bs : List Byte) (m : Memory) (i : Nat) (h : m.wf = true) : (writeTxBuf m i bs).wf = true := by
  induction bs generalizing m i with
  | nil => exact h
  | cons b bs ih => exact ih _ _ (Memory.wf_write _ _ _ h)

/-- The cells after writing TXBUF: those before, or in TXBUF at the indices written. -/
theorem writeTxBuf_cells (bs : List Byte) (m : Memory) (i : Nat) :
    ∀ c ∈ writeTxBuf m i bs, (∃ j, j < bs.length ∧ c.1 = txAddr (i + j)) ∨ c ∈ m := by
  induction bs generalizing m i with
  | nil => intro c hc; exact .inr hc
  | cons b bs ih =>
    intro c hc
    rcases ih _ _ c hc with ⟨j, hj, h⟩ | h
    · exact .inl ⟨j + 1, by simp; omega, by rw [h]; congr 1; omega⟩
    · rcases Memory.mem_write _ _ _ c h with h | h
      · exact .inl ⟨0, by simp, by simpa using h⟩
      · exact .inr h

/-- Writing REGVAL[i] keeps the canonical form. -/
theorem writeRegVal_wf (m : Memory) (i : Nat) (v : Half) (h : m.wf = true) : (writeRegVal m i v).wf = true :=
  Memory.wf_write _ _ _ (Memory.wf_write _ _ _ h)

/-- A read after a write of REGVAL[i]. -/
theorem writeRegVal_read (m : Memory) (i : Nat) (v : Half) (a : Nat) :
    (writeRegVal m i v).read a
      = if a = regValAddr i + 1 then some (hiByte v) else if a = regValAddr i then some (loByte v) else m.read a := by
  simp [writeRegVal, Memory.read_write]

theorem writeRegVals_wf (vs : List Half) (m : Memory) (i : Nat) (h : m.wf = true) :
    (writeRegVals m i vs).wf = true := by
  induction vs generalizing m i with
  | nil => exact h
  | cons v vs ih => exact ih _ _ (writeRegVal_wf _ _ _ h)

/-- Writing REGVAL from index `i` on leaves every offset outside those entries as it was. -/
theorem writeRegVals_read_other (vs : List Half) (m : Memory) (i a : Nat)
    (h : ∀ j, j < vs.length → a ≠ regValAddr (i + j) ∧ a ≠ regValAddr (i + j) + 1) :
    (writeRegVals m i vs).read a = m.read a := by
  induction vs generalizing m i with
  | nil => rfl
  | cons v vs ih =>
    rw [writeRegVals, ih]
    · have := h 0 (by simp)
      simp only [Nat.add_zero] at this
      rw [writeRegVal_read, if_neg this.2, if_neg this.1]
    · intro j hj
      have := h (j + 1) (by simpa using hj)
      have e : i + 1 + j = i + (j + 1) := by omega
      rw [e]
      exact this

/-- Writing REGVAL from index `i` on: value `j` lands in REGVAL[i + j], low byte first. -/
theorem writeRegVals_read (vs : List Half) (m : Memory) (i j : Nat) (hj : j < vs.length) :
    (writeRegVals m i vs).read (regValAddr (i + j)) = some (loByte vs[j])
      ∧ (writeRegVals m i vs).read (regValAddr (i + j) + 1) = some (hiByte vs[j]) := by
  induction vs generalizing m i j with
  | nil => simp at hj
  | cons v vs ih =>
    rw [writeRegVals]
    cases j with
    | zero =>
      constructor
      · rw [writeRegVals_read_other, writeRegVal_read]
        · simp
        · intro j _; unfold regValAddr; omega
      · rw [writeRegVals_read_other, writeRegVal_read]
        · simp
        · intro j _; unfold regValAddr; omega
    | succ j =>
      have e : i + (j + 1) = i + 1 + j := by omega
      rw [e]
      simpa using ih (writeRegVal m i v) (i + 1) j (by simpa using hj)

/-- The cells after writing REGVAL: those before, or in REGVAL at the indices written. -/
theorem writeRegVals_cells (vs : List Half) (m : Memory) (i : Nat) :
    ∀ c ∈ writeRegVals m i vs,
      (∃ j, j < vs.length ∧ (c.1 = regValAddr (i + j) ∨ c.1 = regValAddr (i + j) + 1)) ∨ c ∈ m := by
  induction vs generalizing m i with
  | nil => intro c hc; exact .inr hc
  | cons v vs ih =>
    intro c hc
    rcases ih _ _ c hc with ⟨j, hj, h⟩ | h
    · refine .inl ⟨j + 1, by simp; omega, ?_⟩
      have e : i + (j + 1) = i + 1 + j := by omega
      rw [e]
      exact h
    · rcases Memory.mem_write _ _ _ c h with h | h
      · exact .inl ⟨0, by simp, .inr (by simpa using h)⟩
      · rcases Memory.mem_write _ _ _ c h with h | h
        · exact .inl ⟨0, by simp, .inl (by simpa using h)⟩
        · exact .inr h

end Sys2Proof.Machine
end

