-- ==== Sys2Proof/Laws/State.lean ====
section
/-! SUPPORT. One lemma per field of State and per named update of it, each true by definition. -/

namespace Sys2Proof.Machine

/-! The fields after `nextDraw`. -/

@[simp] theorem nextDraw_phase (s : State) : (nextDraw s).phase = s.phase := rfl
@[simp] theorem nextDraw_txIdx (s : State) : (nextDraw s).txIdx = s.txIdx := rfl
@[simp] theorem nextDraw_opened (s : State) : (nextDraw s).opened = s.opened := rfl
@[simp] theorem nextDraw_done (s : State) : (nextDraw s).done = s.done := rfl
@[simp] theorem nextDraw_err (s : State) : (nextDraw s).err = s.err := rfl
@[simp] theorem nextDraw_cmdRej (s : State) : (nextDraw s).cmdRej = s.cmdRej := rfl
@[simp] theorem nextDraw_lastOp (s : State) : (nextDraw s).lastOp = s.lastOp := rfl
@[simp] theorem nextDraw_errCode (s : State) : (nextDraw s).errCode = s.errCode := rfl
@[simp] theorem nextDraw_excCode (s : State) : (nextDraw s).excCode = s.excCode := rfl
@[simp] theorem nextDraw_slaveAddr (s : State) : (nextDraw s).slaveAddr = s.slaveAddr := rfl
@[simp] theorem nextDraw_startReg (s : State) : (nextDraw s).startReg = s.startReg := rfl
@[simp] theorem nextDraw_regCount (s : State) : (nextDraw s).regCount = s.regCount := rfl
@[simp] theorem nextDraw_timeoutTicks (s : State) : (nextDraw s).timeoutTicks = s.timeoutTicks := rfl
@[simp] theorem nextDraw_timer (s : State) : (nextDraw s).timer = s.timer := rfl
@[simp] theorem nextDraw_txLen (s : State) : (nextDraw s).txLen = s.txLen := rfl
@[simp] theorem nextDraw_rxLen (s : State) : (nextDraw s).rxLen = s.rxLen := rfl
@[simp] theorem nextDraw_crcResult (s : State) : (nextDraw s).crcResult = s.crcResult := rfl
@[simp] theorem nextDraw_respHdr (s : State) : (nextDraw s).respHdr = s.respHdr := rfl
@[simp] theorem nextDraw_regN (s : State) : (nextDraw s).regN = s.regN := rfl
@[simp] theorem nextDraw_floatResult (s : State) : (nextDraw s).floatResult = s.floatResult := rfl
@[simp] theorem nextDraw_mem (s : State) : (nextDraw s).mem = s.mem := rfl
@[simp] theorem nextDraw_bus (s : State) : (nextDraw s).bus = s.bus := rfl
@[simp] theorem nextDraw_input (s : State) : (nextDraw s).input = s.input := rfl
@[simp] theorem nextDraw_phyLevel (s : State) : (nextDraw s).phyLevel = s.phyLevel := rfl
@[simp] theorem nextDraw_draws (s : State) : (nextDraw s).draws = s.draws + 1 := rfl
@[simp] theorem nextDraw_wireOut (s : State) : (nextDraw s).wireOut = s.wireOut := rfl

/-! The fields after `accept`. -/

@[simp] theorem accept_phase (op : BitVec 4) (s : State) : (accept op s).phase = s.phase := rfl
@[simp] theorem accept_txIdx (op : BitVec 4) (s : State) : (accept op s).txIdx = s.txIdx := rfl
@[simp] theorem accept_opened (op : BitVec 4) (s : State) : (accept op s).opened = s.opened := rfl
@[simp] theorem accept_done (op : BitVec 4) (s : State) : (accept op s).done = false := rfl
@[simp] theorem accept_err (op : BitVec 4) (s : State) : (accept op s).err = false := rfl
@[simp] theorem accept_cmdRej (op : BitVec 4) (s : State) : (accept op s).cmdRej = s.cmdRej := rfl
@[simp] theorem accept_lastOp (op : BitVec 4) (s : State) : (accept op s).lastOp = op := rfl
@[simp] theorem accept_errCode (op : BitVec 4) (s : State) : (accept op s).errCode = 0#8 := rfl
@[simp] theorem accept_excCode (op : BitVec 4) (s : State) : (accept op s).excCode = 0#8 := rfl
@[simp] theorem accept_slaveAddr (op : BitVec 4) (s : State) : (accept op s).slaveAddr = s.slaveAddr := rfl
@[simp] theorem accept_startReg (op : BitVec 4) (s : State) : (accept op s).startReg = s.startReg := rfl
@[simp] theorem accept_regCount (op : BitVec 4) (s : State) : (accept op s).regCount = s.regCount := rfl
@[simp] theorem accept_timeoutTicks (op : BitVec 4) (s : State) : (accept op s).timeoutTicks = s.timeoutTicks := rfl
@[simp] theorem accept_timer (op : BitVec 4) (s : State) : (accept op s).timer = s.timer := rfl
@[simp] theorem accept_txLen (op : BitVec 4) (s : State) : (accept op s).txLen = s.txLen := rfl
@[simp] theorem accept_rxLen (op : BitVec 4) (s : State) : (accept op s).rxLen = s.rxLen := rfl
@[simp] theorem accept_crcResult (op : BitVec 4) (s : State) : (accept op s).crcResult = s.crcResult := rfl
@[simp] theorem accept_respHdr (op : BitVec 4) (s : State) : (accept op s).respHdr = s.respHdr := rfl
@[simp] theorem accept_regN (op : BitVec 4) (s : State) : (accept op s).regN = s.regN := rfl
@[simp] theorem accept_floatResult (op : BitVec 4) (s : State) : (accept op s).floatResult = s.floatResult := rfl
@[simp] theorem accept_mem (op : BitVec 4) (s : State) : (accept op s).mem = s.mem := rfl
@[simp] theorem accept_bus (op : BitVec 4) (s : State) : (accept op s).bus = s.bus := rfl
@[simp] theorem accept_input (op : BitVec 4) (s : State) : (accept op s).input = s.input := rfl
@[simp] theorem accept_phyLevel (op : BitVec 4) (s : State) : (accept op s).phyLevel = s.phyLevel := rfl
@[simp] theorem accept_draws (op : BitVec 4) (s : State) : (accept op s).draws = s.draws := rfl
@[simp] theorem accept_wireOut (op : BitVec 4) (s : State) : (accept op s).wireOut = s.wireOut := rfl

/-! The fields after `finish`. -/

@[simp] theorem finish_phase (s : State) : (finish s).phase = .idle := rfl
@[simp] theorem finish_txIdx (s : State) : (finish s).txIdx = s.txIdx := rfl
@[simp] theorem finish_opened (s : State) : (finish s).opened = s.opened := rfl
@[simp] theorem finish_done (s : State) : (finish s).done = true := rfl
@[simp] theorem finish_err (s : State) : (finish s).err = decide (s.errCode ≠ 0#8) := rfl
@[simp] theorem finish_cmdRej (s : State) : (finish s).cmdRej = s.cmdRej := rfl
@[simp] theorem finish_lastOp (s : State) : (finish s).lastOp = s.lastOp := rfl
@[simp] theorem finish_errCode (s : State) : (finish s).errCode = s.errCode := rfl
@[simp] theorem finish_excCode (s : State) : (finish s).excCode = s.excCode := rfl
@[simp] theorem finish_slaveAddr (s : State) : (finish s).slaveAddr = s.slaveAddr := rfl
@[simp] theorem finish_startReg (s : State) : (finish s).startReg = s.startReg := rfl
@[simp] theorem finish_regCount (s : State) : (finish s).regCount = s.regCount := rfl
@[simp] theorem finish_timeoutTicks (s : State) : (finish s).timeoutTicks = s.timeoutTicks := rfl
@[simp] theorem finish_timer (s : State) : (finish s).timer = s.timer := rfl
@[simp] theorem finish_txLen (s : State) : (finish s).txLen = s.txLen := rfl
@[simp] theorem finish_rxLen (s : State) : (finish s).rxLen = s.rxLen := rfl
@[simp] theorem finish_crcResult (s : State) : (finish s).crcResult = s.crcResult := rfl
@[simp] theorem finish_respHdr (s : State) : (finish s).respHdr = s.respHdr := rfl
@[simp] theorem finish_regN (s : State) : (finish s).regN = s.regN := rfl
@[simp] theorem finish_floatResult (s : State) : (finish s).floatResult = s.floatResult := rfl
@[simp] theorem finish_mem (s : State) : (finish s).mem = s.mem := rfl
@[simp] theorem finish_bus (s : State) : (finish s).bus = s.bus := rfl
@[simp] theorem finish_input (s : State) : (finish s).input = s.input := rfl
@[simp] theorem finish_phyLevel (s : State) : (finish s).phyLevel = s.phyLevel := rfl
@[simp] theorem finish_draws (s : State) : (finish s).draws = s.draws := rfl
@[simp] theorem finish_wireOut (s : State) : (finish s).wireOut = s.wireOut := rfl

/-! The fields after `raiseError`. -/

@[simp] theorem raiseError_phase (e : ErrorCode) (s : State) : (raiseError e s).phase = .idle := rfl
@[simp] theorem raiseError_txIdx (e : ErrorCode) (s : State) : (raiseError e s).txIdx = s.txIdx := rfl
@[simp] theorem raiseError_opened (e : ErrorCode) (s : State) : (raiseError e s).opened = s.opened := rfl
@[simp] theorem raiseError_done (e : ErrorCode) (s : State) : (raiseError e s).done = true := rfl
@[simp] theorem raiseError_err (e : ErrorCode) (s : State) : (raiseError e s).err = decide (codeNumber e ≠ 0#8) := rfl
@[simp] theorem raiseError_cmdRej (e : ErrorCode) (s : State) : (raiseError e s).cmdRej = s.cmdRej := rfl
@[simp] theorem raiseError_lastOp (e : ErrorCode) (s : State) : (raiseError e s).lastOp = s.lastOp := rfl
@[simp] theorem raiseError_errCode (e : ErrorCode) (s : State) : (raiseError e s).errCode = codeNumber e := rfl
@[simp] theorem raiseError_excCode (e : ErrorCode) (s : State) : (raiseError e s).excCode = excAfter e s.excCode := rfl
@[simp] theorem raiseError_slaveAddr (e : ErrorCode) (s : State) : (raiseError e s).slaveAddr = s.slaveAddr := rfl
@[simp] theorem raiseError_startReg (e : ErrorCode) (s : State) : (raiseError e s).startReg = s.startReg := rfl
@[simp] theorem raiseError_regCount (e : ErrorCode) (s : State) : (raiseError e s).regCount = s.regCount := rfl
@[simp] theorem raiseError_timeoutTicks (e : ErrorCode) (s : State) : (raiseError e s).timeoutTicks = s.timeoutTicks := rfl
@[simp] theorem raiseError_timer (e : ErrorCode) (s : State) : (raiseError e s).timer = s.timer := rfl
@[simp] theorem raiseError_txLen (e : ErrorCode) (s : State) : (raiseError e s).txLen = s.txLen := rfl
@[simp] theorem raiseError_rxLen (e : ErrorCode) (s : State) : (raiseError e s).rxLen = s.rxLen := rfl
@[simp] theorem raiseError_crcResult (e : ErrorCode) (s : State) : (raiseError e s).crcResult = s.crcResult := rfl
@[simp] theorem raiseError_respHdr (e : ErrorCode) (s : State) : (raiseError e s).respHdr = s.respHdr := rfl
@[simp] theorem raiseError_regN (e : ErrorCode) (s : State) : (raiseError e s).regN = s.regN := rfl
@[simp] theorem raiseError_floatResult (e : ErrorCode) (s : State) : (raiseError e s).floatResult = s.floatResult := rfl
@[simp] theorem raiseError_mem (e : ErrorCode) (s : State) : (raiseError e s).mem = s.mem := rfl
@[simp] theorem raiseError_bus (e : ErrorCode) (s : State) : (raiseError e s).bus = s.bus := rfl
@[simp] theorem raiseError_input (e : ErrorCode) (s : State) : (raiseError e s).input = s.input := rfl
@[simp] theorem raiseError_phyLevel (e : ErrorCode) (s : State) : (raiseError e s).phyLevel = s.phyLevel := rfl
@[simp] theorem raiseError_draws (e : ErrorCode) (s : State) : (raiseError e s).draws = s.draws := rfl
@[simp] theorem raiseError_wireOut (e : ErrorCode) (s : State) : (raiseError e s).wireOut = s.wireOut := rfl

/-! The fields after `reject`. -/

@[simp] theorem reject_phase (s : State) : (reject s).phase = s.phase := rfl
@[simp] theorem reject_txIdx (s : State) : (reject s).txIdx = s.txIdx := rfl
@[simp] theorem reject_opened (s : State) : (reject s).opened = s.opened := rfl
@[simp] theorem reject_done (s : State) : (reject s).done = s.done := rfl
@[simp] theorem reject_err (s : State) : (reject s).err = s.err := rfl
@[simp] theorem reject_cmdRej (s : State) : (reject s).cmdRej = true := rfl
@[simp] theorem reject_lastOp (s : State) : (reject s).lastOp = s.lastOp := rfl
@[simp] theorem reject_errCode (s : State) : (reject s).errCode = s.errCode := rfl
@[simp] theorem reject_excCode (s : State) : (reject s).excCode = s.excCode := rfl
@[simp] theorem reject_slaveAddr (s : State) : (reject s).slaveAddr = s.slaveAddr := rfl
@[simp] theorem reject_startReg (s : State) : (reject s).startReg = s.startReg := rfl
@[simp] theorem reject_regCount (s : State) : (reject s).regCount = s.regCount := rfl
@[simp] theorem reject_timeoutTicks (s : State) : (reject s).timeoutTicks = s.timeoutTicks := rfl
@[simp] theorem reject_timer (s : State) : (reject s).timer = s.timer := rfl
@[simp] theorem reject_txLen (s : State) : (reject s).txLen = s.txLen := rfl
@[simp] theorem reject_rxLen (s : State) : (reject s).rxLen = s.rxLen := rfl
@[simp] theorem reject_crcResult (s : State) : (reject s).crcResult = s.crcResult := rfl
@[simp] theorem reject_respHdr (s : State) : (reject s).respHdr = s.respHdr := rfl
@[simp] theorem reject_regN (s : State) : (reject s).regN = s.regN := rfl
@[simp] theorem reject_floatResult (s : State) : (reject s).floatResult = s.floatResult := rfl
@[simp] theorem reject_mem (s : State) : (reject s).mem = s.mem := rfl
@[simp] theorem reject_bus (s : State) : (reject s).bus = s.bus := rfl
@[simp] theorem reject_input (s : State) : (reject s).input = s.input := rfl
@[simp] theorem reject_phyLevel (s : State) : (reject s).phyLevel = s.phyLevel := rfl
@[simp] theorem reject_draws (s : State) : (reject s).draws = s.draws := rfl
@[simp] theorem reject_wireOut (s : State) : (reject s).wireOut = s.wireOut := rfl

/-! The fields after `samplePhy`. -/

@[simp] theorem samplePhy_phase (s : State) : (samplePhy s).phase = s.phase := rfl
@[simp] theorem samplePhy_txIdx (s : State) : (samplePhy s).txIdx = s.txIdx := rfl
@[simp] theorem samplePhy_opened (s : State) : (samplePhy s).opened = s.opened := rfl
@[simp] theorem samplePhy_done (s : State) : (samplePhy s).done = s.done := rfl
@[simp] theorem samplePhy_err (s : State) : (samplePhy s).err = s.err := rfl
@[simp] theorem samplePhy_cmdRej (s : State) : (samplePhy s).cmdRej = s.cmdRej := rfl
@[simp] theorem samplePhy_lastOp (s : State) : (samplePhy s).lastOp = s.lastOp := rfl
@[simp] theorem samplePhy_errCode (s : State) : (samplePhy s).errCode = s.errCode := rfl
@[simp] theorem samplePhy_excCode (s : State) : (samplePhy s).excCode = s.excCode := rfl
@[simp] theorem samplePhy_slaveAddr (s : State) : (samplePhy s).slaveAddr = s.slaveAddr := rfl
@[simp] theorem samplePhy_startReg (s : State) : (samplePhy s).startReg = s.startReg := rfl
@[simp] theorem samplePhy_regCount (s : State) : (samplePhy s).regCount = s.regCount := rfl
@[simp] theorem samplePhy_timeoutTicks (s : State) : (samplePhy s).timeoutTicks = s.timeoutTicks := rfl
@[simp] theorem samplePhy_timer (s : State) : (samplePhy s).timer = s.timer := rfl
@[simp] theorem samplePhy_txLen (s : State) : (samplePhy s).txLen = s.txLen := rfl
@[simp] theorem samplePhy_rxLen (s : State) : (samplePhy s).rxLen = s.rxLen := rfl
@[simp] theorem samplePhy_crcResult (s : State) : (samplePhy s).crcResult = s.crcResult := rfl
@[simp] theorem samplePhy_respHdr (s : State) : (samplePhy s).respHdr = s.respHdr := rfl
@[simp] theorem samplePhy_regN (s : State) : (samplePhy s).regN = s.regN := rfl
@[simp] theorem samplePhy_floatResult (s : State) : (samplePhy s).floatResult = s.floatResult := rfl
@[simp] theorem samplePhy_mem (s : State) : (samplePhy s).mem = s.mem := rfl
@[simp] theorem samplePhy_bus (s : State) : (samplePhy s).bus = s.bus := rfl
@[simp] theorem samplePhy_input (s : State) : (samplePhy s).input = s.input := rfl
@[simp] theorem samplePhy_phyLevel (s : State) : (samplePhy s).phyLevel = none := rfl
@[simp] theorem samplePhy_draws (s : State) : (samplePhy s).draws = s.draws := rfl
@[simp] theorem samplePhy_wireOut (s : State) : (samplePhy s).wireOut = s.wireOut := rfl

/-! The fields after `buildRequest`. -/

@[simp] theorem buildRequest_phase (s : State) : (buildRequest s).phase = s.phase := rfl
@[simp] theorem buildRequest_txIdx (s : State) : (buildRequest s).txIdx = s.txIdx := rfl
@[simp] theorem buildRequest_opened (s : State) : (buildRequest s).opened = s.opened := rfl
@[simp] theorem buildRequest_done (s : State) : (buildRequest s).done = s.done := rfl
@[simp] theorem buildRequest_err (s : State) : (buildRequest s).err = s.err := rfl
@[simp] theorem buildRequest_cmdRej (s : State) : (buildRequest s).cmdRej = s.cmdRej := rfl
@[simp] theorem buildRequest_lastOp (s : State) : (buildRequest s).lastOp = s.lastOp := rfl
@[simp] theorem buildRequest_errCode (s : State) : (buildRequest s).errCode = s.errCode := rfl
@[simp] theorem buildRequest_excCode (s : State) : (buildRequest s).excCode = s.excCode := rfl
@[simp] theorem buildRequest_slaveAddr (s : State) : (buildRequest s).slaveAddr = s.slaveAddr := rfl
@[simp] theorem buildRequest_startReg (s : State) : (buildRequest s).startReg = s.startReg := rfl
@[simp] theorem buildRequest_regCount (s : State) : (buildRequest s).regCount = s.regCount := rfl
@[simp] theorem buildRequest_timeoutTicks (s : State) : (buildRequest s).timeoutTicks = s.timeoutTicks := rfl
@[simp] theorem buildRequest_timer (s : State) : (buildRequest s).timer = s.timer := rfl
@[simp] theorem buildRequest_txLen (s : State) : (buildRequest s).txLen = 8#4 := rfl
@[simp] theorem buildRequest_rxLen (s : State) : (buildRequest s).rxLen = s.rxLen := rfl
@[simp] theorem buildRequest_crcResult (s : State) : (buildRequest s).crcResult = s.crcResult := rfl
@[simp] theorem buildRequest_respHdr (s : State) : (buildRequest s).respHdr = s.respHdr := rfl
@[simp] theorem buildRequest_regN (s : State) : (buildRequest s).regN = s.regN := rfl
@[simp] theorem buildRequest_floatResult (s : State) : (buildRequest s).floatResult = s.floatResult := rfl
@[simp] theorem buildRequest_mem (s : State) : (buildRequest s).mem = writeTxBuf s.mem 0 (builtFrame s) := rfl
@[simp] theorem buildRequest_bus (s : State) : (buildRequest s).bus = s.bus := rfl
@[simp] theorem buildRequest_input (s : State) : (buildRequest s).input = s.input := rfl
@[simp] theorem buildRequest_phyLevel (s : State) : (buildRequest s).phyLevel = s.phyLevel := rfl
@[simp] theorem buildRequest_draws (s : State) : (buildRequest s).draws = s.draws := rfl
@[simp] theorem buildRequest_wireOut (s : State) : (buildRequest s).wireOut = s.wireOut := rfl

/-! The fields after `startExchange`. -/

@[simp] theorem startExchange_phase (s : State) : (startExchange s).phase = s.phase := rfl
@[simp] theorem startExchange_txIdx (s : State) : (startExchange s).txIdx = 0 := rfl
@[simp] theorem startExchange_opened (s : State) : (startExchange s).opened = s.opened := rfl
@[simp] theorem startExchange_done (s : State) : (startExchange s).done = s.done := rfl
@[simp] theorem startExchange_err (s : State) : (startExchange s).err = s.err := rfl
@[simp] theorem startExchange_cmdRej (s : State) : (startExchange s).cmdRej = s.cmdRej := rfl
@[simp] theorem startExchange_lastOp (s : State) : (startExchange s).lastOp = s.lastOp := rfl
@[simp] theorem startExchange_errCode (s : State) : (startExchange s).errCode = s.errCode := rfl
@[simp] theorem startExchange_excCode (s : State) : (startExchange s).excCode = s.excCode := rfl
@[simp] theorem startExchange_slaveAddr (s : State) : (startExchange s).slaveAddr = s.slaveAddr := rfl
@[simp] theorem startExchange_startReg (s : State) : (startExchange s).startReg = s.startReg := rfl
@[simp] theorem startExchange_regCount (s : State) : (startExchange s).regCount = s.regCount := rfl
@[simp] theorem startExchange_timeoutTicks (s : State) : (startExchange s).timeoutTicks = s.timeoutTicks := rfl
@[simp] theorem startExchange_timer (s : State) : (startExchange s).timer = 0#32 := rfl
@[simp] theorem startExchange_txLen (s : State) : (startExchange s).txLen = s.txLen := rfl
@[simp] theorem startExchange_rxLen (s : State) : (startExchange s).rxLen = 0#9 := rfl
@[simp] theorem startExchange_crcResult (s : State) : (startExchange s).crcResult = s.crcResult := rfl
@[simp] theorem startExchange_respHdr (s : State) : (startExchange s).respHdr = s.respHdr := rfl
@[simp] theorem startExchange_regN (s : State) : (startExchange s).regN = s.regN := rfl
@[simp] theorem startExchange_floatResult (s : State) : (startExchange s).floatResult = s.floatResult := rfl
@[simp] theorem startExchange_mem (s : State) : (startExchange s).mem = s.mem := rfl
@[simp] theorem startExchange_bus (s : State) : (startExchange s).bus = s.bus := rfl
@[simp] theorem startExchange_input (s : State) : (startExchange s).input = s.input := rfl
@[simp] theorem startExchange_phyLevel (s : State) : (startExchange s).phyLevel = s.phyLevel := rfl
@[simp] theorem startExchange_draws (s : State) : (startExchange s).draws = s.draws := rfl
@[simp] theorem startExchange_wireOut (s : State) : (startExchange s).wireOut = s.wireOut := rfl

/-! The fields after `sendByte`. -/

@[simp] theorem sendByte_phase (s : State) : (sendByte s).phase = if s.txIdx + 1 = s.txLen.toNat then .rx else s.phase := rfl
@[simp] theorem sendByte_txIdx (s : State) : (sendByte s).txIdx = s.txIdx + 1 := rfl
@[simp] theorem sendByte_opened (s : State) : (sendByte s).opened = s.opened := rfl
@[simp] theorem sendByte_done (s : State) : (sendByte s).done = s.done := rfl
@[simp] theorem sendByte_err (s : State) : (sendByte s).err = s.err := rfl
@[simp] theorem sendByte_cmdRej (s : State) : (sendByte s).cmdRej = s.cmdRej := rfl
@[simp] theorem sendByte_lastOp (s : State) : (sendByte s).lastOp = s.lastOp := rfl
@[simp] theorem sendByte_errCode (s : State) : (sendByte s).errCode = s.errCode := rfl
@[simp] theorem sendByte_excCode (s : State) : (sendByte s).excCode = s.excCode := rfl
@[simp] theorem sendByte_slaveAddr (s : State) : (sendByte s).slaveAddr = s.slaveAddr := rfl
@[simp] theorem sendByte_startReg (s : State) : (sendByte s).startReg = s.startReg := rfl
@[simp] theorem sendByte_regCount (s : State) : (sendByte s).regCount = s.regCount := rfl
@[simp] theorem sendByte_timeoutTicks (s : State) : (sendByte s).timeoutTicks = s.timeoutTicks := rfl
@[simp] theorem sendByte_timer (s : State) : (sendByte s).timer = s.timer := rfl
@[simp] theorem sendByte_txLen (s : State) : (sendByte s).txLen = s.txLen := rfl
@[simp] theorem sendByte_rxLen (s : State) : (sendByte s).rxLen = s.rxLen := rfl
@[simp] theorem sendByte_crcResult (s : State) : (sendByte s).crcResult = s.crcResult := rfl
@[simp] theorem sendByte_respHdr (s : State) : (sendByte s).respHdr = s.respHdr := rfl
@[simp] theorem sendByte_regN (s : State) : (sendByte s).regN = s.regN := rfl
@[simp] theorem sendByte_floatResult (s : State) : (sendByte s).floatResult = s.floatResult := rfl
@[simp] theorem sendByte_mem (s : State) : (sendByte s).mem = s.mem := rfl
@[simp] theorem sendByte_bus (s : State) : (sendByte s).bus = s.bus := rfl
@[simp] theorem sendByte_input (s : State) : (sendByte s).input = s.input := rfl
@[simp] theorem sendByte_phyLevel (s : State) : (sendByte s).phyLevel = s.phyLevel := rfl
@[simp] theorem sendByte_draws (s : State) : (sendByte s).draws = s.draws := rfl
@[simp] theorem sendByte_wireOut (s : State) : (sendByte s).wireOut = s.wireOut ++ [txData s] := rfl

/-! The fields after `storeRxByte`. -/

@[simp] theorem storeRxByte_phase (b : Byte) (s : State) : (storeRxByte b s).phase = s.phase := rfl
@[simp] theorem storeRxByte_txIdx (b : Byte) (s : State) : (storeRxByte b s).txIdx = s.txIdx := rfl
@[simp] theorem storeRxByte_opened (b : Byte) (s : State) : (storeRxByte b s).opened = s.opened := rfl
@[simp] theorem storeRxByte_done (b : Byte) (s : State) : (storeRxByte b s).done = s.done := rfl
@[simp] theorem storeRxByte_err (b : Byte) (s : State) : (storeRxByte b s).err = s.err := rfl
@[simp] theorem storeRxByte_cmdRej (b : Byte) (s : State) : (storeRxByte b s).cmdRej = s.cmdRej := rfl
@[simp] theorem storeRxByte_lastOp (b : Byte) (s : State) : (storeRxByte b s).lastOp = s.lastOp := rfl
@[simp] theorem storeRxByte_errCode (b : Byte) (s : State) : (storeRxByte b s).errCode = s.errCode := rfl
@[simp] theorem storeRxByte_excCode (b : Byte) (s : State) : (storeRxByte b s).excCode = s.excCode := rfl
@[simp] theorem storeRxByte_slaveAddr (b : Byte) (s : State) : (storeRxByte b s).slaveAddr = s.slaveAddr := rfl
@[simp] theorem storeRxByte_startReg (b : Byte) (s : State) : (storeRxByte b s).startReg = s.startReg := rfl
@[simp] theorem storeRxByte_regCount (b : Byte) (s : State) : (storeRxByte b s).regCount = s.regCount := rfl
@[simp] theorem storeRxByte_timeoutTicks (b : Byte) (s : State) : (storeRxByte b s).timeoutTicks = s.timeoutTicks := rfl
@[simp] theorem storeRxByte_timer (b : Byte) (s : State) : (storeRxByte b s).timer = s.timer := rfl
@[simp] theorem storeRxByte_txLen (b : Byte) (s : State) : (storeRxByte b s).txLen = s.txLen := rfl
@[simp] theorem storeRxByte_rxLen (b : Byte) (s : State) : (storeRxByte b s).rxLen = s.rxLen + 1#9 := rfl
@[simp] theorem storeRxByte_crcResult (b : Byte) (s : State) : (storeRxByte b s).crcResult = s.crcResult := rfl
@[simp] theorem storeRxByte_respHdr (b : Byte) (s : State) : (storeRxByte b s).respHdr = s.respHdr := rfl
@[simp] theorem storeRxByte_regN (b : Byte) (s : State) : (storeRxByte b s).regN = s.regN := rfl
@[simp] theorem storeRxByte_floatResult (b : Byte) (s : State) : (storeRxByte b s).floatResult = s.floatResult := rfl
@[simp] theorem storeRxByte_mem (b : Byte) (s : State) : (storeRxByte b s).mem = s.mem.write (rxAddr s.rxLen.toNat) b := rfl
@[simp] theorem storeRxByte_bus (b : Byte) (s : State) : (storeRxByte b s).bus = s.bus := rfl
@[simp] theorem storeRxByte_input (b : Byte) (s : State) : (storeRxByte b s).input = s.input := rfl
@[simp] theorem storeRxByte_phyLevel (b : Byte) (s : State) : (storeRxByte b s).phyLevel = s.phyLevel := rfl
@[simp] theorem storeRxByte_draws (b : Byte) (s : State) : (storeRxByte b s).draws = s.draws := rfl
@[simp] theorem storeRxByte_wireOut (b : Byte) (s : State) : (storeRxByte b s).wireOut = s.wireOut := rfl

/-! The fields after `answerWrite`. -/

@[simp] theorem answerWrite_phase (e : Bool) (s : State) : (answerWrite e s).phase = s.phase := rfl
@[simp] theorem answerWrite_txIdx (e : Bool) (s : State) : (answerWrite e s).txIdx = s.txIdx := rfl
@[simp] theorem answerWrite_opened (e : Bool) (s : State) : (answerWrite e s).opened = s.opened := rfl
@[simp] theorem answerWrite_done (e : Bool) (s : State) : (answerWrite e s).done = s.done := rfl
@[simp] theorem answerWrite_err (e : Bool) (s : State) : (answerWrite e s).err = s.err := rfl
@[simp] theorem answerWrite_cmdRej (e : Bool) (s : State) : (answerWrite e s).cmdRej = s.cmdRej := rfl
@[simp] theorem answerWrite_lastOp (e : Bool) (s : State) : (answerWrite e s).lastOp = s.lastOp := rfl
@[simp] theorem answerWrite_errCode (e : Bool) (s : State) : (answerWrite e s).errCode = s.errCode := rfl
@[simp] theorem answerWrite_excCode (e : Bool) (s : State) : (answerWrite e s).excCode = s.excCode := rfl
@[simp] theorem answerWrite_slaveAddr (e : Bool) (s : State) : (answerWrite e s).slaveAddr = s.slaveAddr := rfl
@[simp] theorem answerWrite_startReg (e : Bool) (s : State) : (answerWrite e s).startReg = s.startReg := rfl
@[simp] theorem answerWrite_regCount (e : Bool) (s : State) : (answerWrite e s).regCount = s.regCount := rfl
@[simp] theorem answerWrite_timeoutTicks (e : Bool) (s : State) : (answerWrite e s).timeoutTicks = s.timeoutTicks := rfl
@[simp] theorem answerWrite_timer (e : Bool) (s : State) : (answerWrite e s).timer = s.timer := rfl
@[simp] theorem answerWrite_txLen (e : Bool) (s : State) : (answerWrite e s).txLen = s.txLen := rfl
@[simp] theorem answerWrite_rxLen (e : Bool) (s : State) : (answerWrite e s).rxLen = s.rxLen := rfl
@[simp] theorem answerWrite_crcResult (e : Bool) (s : State) : (answerWrite e s).crcResult = s.crcResult := rfl
@[simp] theorem answerWrite_respHdr (e : Bool) (s : State) : (answerWrite e s).respHdr = s.respHdr := rfl
@[simp] theorem answerWrite_regN (e : Bool) (s : State) : (answerWrite e s).regN = s.regN := rfl
@[simp] theorem answerWrite_floatResult (e : Bool) (s : State) : (answerWrite e s).floatResult = s.floatResult := rfl
@[simp] theorem answerWrite_mem (e : Bool) (s : State) : (answerWrite e s).mem = s.mem := rfl
@[simp] theorem answerWrite_bus (e : Bool) (s : State) : (answerWrite e s).bus = ⟨e, s.bus.rdata⟩ := rfl
@[simp] theorem answerWrite_input (e : Bool) (s : State) : (answerWrite e s).input = s.input := rfl
@[simp] theorem answerWrite_phyLevel (e : Bool) (s : State) : (answerWrite e s).phyLevel = s.phyLevel := rfl
@[simp] theorem answerWrite_draws (e : Bool) (s : State) : (answerWrite e s).draws = s.draws := rfl
@[simp] theorem answerWrite_wireOut (e : Bool) (s : State) : (answerWrite e s).wireOut = s.wireOut := rfl

/-! The fields after `parseFail`. -/

@[simp] theorem parseFail_phase (e : ErrorCode) (s : State) : (parseFail e s).phase = .idle := rfl
@[simp] theorem parseFail_txIdx (e : ErrorCode) (s : State) : (parseFail e s).txIdx = s.txIdx := rfl
@[simp] theorem parseFail_opened (e : ErrorCode) (s : State) : (parseFail e s).opened = s.opened := rfl
@[simp] theorem parseFail_done (e : ErrorCode) (s : State) : (parseFail e s).done = true := rfl
@[simp] theorem parseFail_err (e : ErrorCode) (s : State) : (parseFail e s).err = decide (codeNumber e ≠ 0#8) := rfl
@[simp] theorem parseFail_cmdRej (e : ErrorCode) (s : State) : (parseFail e s).cmdRej = s.cmdRej := rfl
@[simp] theorem parseFail_lastOp (e : ErrorCode) (s : State) : (parseFail e s).lastOp = s.lastOp := rfl
@[simp] theorem parseFail_errCode (e : ErrorCode) (s : State) : (parseFail e s).errCode = codeNumber e := rfl
@[simp] theorem parseFail_excCode (e : ErrorCode) (s : State) : (parseFail e s).excCode = excAfter e s.excCode := rfl
@[simp] theorem parseFail_slaveAddr (e : ErrorCode) (s : State) : (parseFail e s).slaveAddr = s.slaveAddr := rfl
@[simp] theorem parseFail_startReg (e : ErrorCode) (s : State) : (parseFail e s).startReg = s.startReg := rfl
@[simp] theorem parseFail_regCount (e : ErrorCode) (s : State) : (parseFail e s).regCount = s.regCount := rfl
@[simp] theorem parseFail_timeoutTicks (e : ErrorCode) (s : State) : (parseFail e s).timeoutTicks = s.timeoutTicks := rfl
@[simp] theorem parseFail_timer (e : ErrorCode) (s : State) : (parseFail e s).timer = s.timer := rfl
@[simp] theorem parseFail_txLen (e : ErrorCode) (s : State) : (parseFail e s).txLen = s.txLen := rfl
@[simp] theorem parseFail_rxLen (e : ErrorCode) (s : State) : (parseFail e s).rxLen = s.rxLen := rfl
@[simp] theorem parseFail_crcResult (e : ErrorCode) (s : State) : (parseFail e s).crcResult = s.crcResult := rfl
@[simp] theorem parseFail_respHdr (e : ErrorCode) (s : State) : (parseFail e s).respHdr = s.respHdr := rfl
@[simp] theorem parseFail_regN (e : ErrorCode) (s : State) : (parseFail e s).regN = 0#8 := rfl
@[simp] theorem parseFail_floatResult (e : ErrorCode) (s : State) : (parseFail e s).floatResult = s.floatResult := rfl
@[simp] theorem parseFail_mem (e : ErrorCode) (s : State) : (parseFail e s).mem = s.mem := rfl
@[simp] theorem parseFail_bus (e : ErrorCode) (s : State) : (parseFail e s).bus = s.bus := rfl
@[simp] theorem parseFail_input (e : ErrorCode) (s : State) : (parseFail e s).input = s.input := rfl
@[simp] theorem parseFail_phyLevel (e : ErrorCode) (s : State) : (parseFail e s).phyLevel = s.phyLevel := rfl
@[simp] theorem parseFail_draws (e : ErrorCode) (s : State) : (parseFail e s).draws = s.draws := rfl
@[simp] theorem parseFail_wireOut (e : ErrorCode) (s : State) : (parseFail e s).wireOut = s.wireOut := rfl

/-! The fields after `resetBlock`. -/

@[simp] theorem resetBlock_phase (s : State) : (resetBlock s).phase = .idle := rfl
@[simp] theorem resetBlock_txIdx (s : State) : (resetBlock s).txIdx = 0 := rfl
@[simp] theorem resetBlock_opened (s : State) : (resetBlock s).opened = false := rfl
@[simp] theorem resetBlock_done (s : State) : (resetBlock s).done = false := rfl
@[simp] theorem resetBlock_err (s : State) : (resetBlock s).err = false := rfl
@[simp] theorem resetBlock_cmdRej (s : State) : (resetBlock s).cmdRej = false := rfl
@[simp] theorem resetBlock_lastOp (s : State) : (resetBlock s).lastOp = 0#4 := rfl
@[simp] theorem resetBlock_errCode (s : State) : (resetBlock s).errCode = 0#8 := rfl
@[simp] theorem resetBlock_excCode (s : State) : (resetBlock s).excCode = 0#8 := rfl
@[simp] theorem resetBlock_slaveAddr (s : State) : (resetBlock s).slaveAddr = 0#8 := rfl
@[simp] theorem resetBlock_startReg (s : State) : (resetBlock s).startReg = 0#16 := rfl
@[simp] theorem resetBlock_regCount (s : State) : (resetBlock s).regCount = 2#16 := rfl
@[simp] theorem resetBlock_timeoutTicks (s : State) : (resetBlock s).timeoutTicks = s.timeoutTicks := rfl
@[simp] theorem resetBlock_timer (s : State) : (resetBlock s).timer = 0#32 := rfl
@[simp] theorem resetBlock_txLen (s : State) : (resetBlock s).txLen = 0#4 := rfl
@[simp] theorem resetBlock_rxLen (s : State) : (resetBlock s).rxLen = 0#9 := rfl
@[simp] theorem resetBlock_crcResult (s : State) : (resetBlock s).crcResult = 0#16 := rfl
@[simp] theorem resetBlock_respHdr (s : State) : (resetBlock s).respHdr = 0#24 := rfl
@[simp] theorem resetBlock_regN (s : State) : (resetBlock s).regN = 0#8 := rfl
@[simp] theorem resetBlock_floatResult (s : State) : (resetBlock s).floatResult = 0#32 := rfl
@[simp] theorem resetBlock_mem (s : State) : (resetBlock s).mem = [] := rfl
@[simp] theorem resetBlock_bus (s : State) : (resetBlock s).bus = s.bus := rfl
@[simp] theorem resetBlock_input (s : State) : (resetBlock s).input = s.input := rfl
@[simp] theorem resetBlock_phyLevel (s : State) : (resetBlock s).phyLevel = s.phyLevel := rfl
@[simp] theorem resetBlock_draws (s : State) : (resetBlock s).draws = s.draws := rfl
@[simp] theorem resetBlock_wireOut (s : State) : (resetBlock s).wireOut = s.wireOut := rfl

/-! The fields at reset. -/

@[simp] theorem reset_phase : State.reset.phase = .idle := rfl
@[simp] theorem reset_txIdx : State.reset.txIdx = 0 := rfl
@[simp] theorem reset_opened : State.reset.opened = false := rfl
@[simp] theorem reset_done : State.reset.done = false := rfl
@[simp] theorem reset_err : State.reset.err = false := rfl
@[simp] theorem reset_cmdRej : State.reset.cmdRej = false := rfl
@[simp] theorem reset_lastOp : State.reset.lastOp = 0#4 := rfl
@[simp] theorem reset_errCode : State.reset.errCode = 0#8 := rfl
@[simp] theorem reset_excCode : State.reset.excCode = 0#8 := rfl
@[simp] theorem reset_slaveAddr : State.reset.slaveAddr = 0#8 := rfl
@[simp] theorem reset_startReg : State.reset.startReg = 0#16 := rfl
@[simp] theorem reset_regCount : State.reset.regCount = 2#16 := rfl
@[simp] theorem reset_timeoutTicks : State.reset.timeoutTicks = Config.tRespTicks := rfl
@[simp] theorem reset_timer : State.reset.timer = 0#32 := rfl
@[simp] theorem reset_txLen : State.reset.txLen = 0#4 := rfl
@[simp] theorem reset_rxLen : State.reset.rxLen = 0#9 := rfl
@[simp] theorem reset_crcResult : State.reset.crcResult = 0#16 := rfl
@[simp] theorem reset_respHdr : State.reset.respHdr = 0#24 := rfl
@[simp] theorem reset_regN : State.reset.regN = 0#8 := rfl
@[simp] theorem reset_floatResult : State.reset.floatResult = 0#32 := rfl
@[simp] theorem reset_mem : State.reset.mem = [] := rfl
@[simp] theorem reset_bus : State.reset.bus = ⟨false, 0#32⟩ := rfl
@[simp] theorem reset_input : State.reset.input = [] := rfl
@[simp] theorem reset_phyLevel : State.reset.phyLevel = none := rfl
@[simp] theorem reset_draws : State.reset.draws = 0 := rfl
@[simp] theorem reset_wireOut : State.reset.wireOut = [] := rfl

end Sys2Proof.Machine
end

