-- ==== Sys2Proof/Laws/Ops.lean ====
section
/-! SUPPORT. For each shared operation, once, everything it can do. -/

namespace Sys2Proof.Machine

/-! Sequencing. -/

/-- Continue with the next state, or stop as `o` stops. -/
def andThen (o : Result) (f : State → Result) : Result :=
  match o with
  | .next s => f s
  | .fault r => .fault r
  | .refused r => .refused r

/-- The bytes of a frame one after another: what their steps do together (Laws/Runs.lean). -/
def rxBytes : List Byte → State → Result
  | [], s => .next s
  | b :: bs, s => andThen (rxByte b false (nextDraw s)) (rxBytes bs)

/-- `n` TxAccepts one after another: what their steps do together (Laws/Runs.lean). -/
def txAccepts : Nat → State → Result
  | 0, s => .next s
  | n + 1, s => andThen (txAccept (nextDraw s)) (txAccepts n)

@[simp] theorem andThen_next (s : State) (f : State → Result) : andThen (.next s) f = f s := rfl

/-- Two operations in sequence answer a next state exactly through a state between them. -/
theorem andThen_eq_next {o : Result} {f : State → Result} {t : State} :
    andThen o f = .next t ↔ ∃ s, o = .next s ∧ f s = .next t := by
  cases o <;> simp [andThen]

theorem rxBytes_cons (b : Byte) (bs : List Byte) (s : State) :
    rxBytes (b :: bs) s = andThen (rxByte b false (nextDraw s)) (rxBytes bs) := rfl

theorem txAccepts_succ (n : Nat) (s : State) :
    txAccepts (n + 1) s = andThen (txAccept (nextDraw s)) (txAccepts n) := rfl

/-- Bytes received in two parts. -/
theorem rxBytes_append (bs cs : List Byte) (s : State) :
    rxBytes (bs ++ cs) s = andThen (rxBytes bs s) (rxBytes cs) := by
  induction bs generalizing s with
  | nil => rfl
  | cons b bs ih =>
    simp only [List.cons_append, rxBytes_cons]
    cases rxByte b false (nextDraw s) with
    | next t => exact ih t
    | fault r => rfl
    | refused r => rfl

/-! A CMD write (R90). -/

theorem busy_eq_false {s : State} : busy s = false ↔ s.phase = .idle := by
  simp [busy]

theorem busy_eq_true {s : State} : busy s = true ↔ s.phase ≠ .idle := by
  simp [busy]

theorem issue_idle {s : State} (h : s.phase = .idle) (op : BitVec 4) (body : State → Result) :
    issue op body s = body (accept op s) := by
  simp [issue, busy, h]

theorem issue_busy {s : State} (h : s.phase ≠ .idle) (op : BitVec 4) (body : State → Result) :
    issue op body s = .next (reject s) := by
  simp [issue, busy, h]

/-- What a CMD write can do: it is rejected, or its command runs from the accepted state. -/
theorem issue_next {op : BitVec 4} {body : State → Result} {s t : State} (h : issue op body s = .next t) :
    (s.phase ≠ .idle ∧ t = reject s) ∨ (s.phase = .idle ∧ body (accept op s) = .next t) := by
  by_cases hp : s.phase = .idle
  · exact .inr ⟨hp, by rw [← h, issue_idle hp]⟩
  · rw [issue_busy hp] at h
    exact .inl ⟨hp, by cases h; rfl⟩

/-! Reading the buffers. -/

/-- What a rule reads depends on the storage and the draw alone. -/
theorem peek_congr {s t : State} {a : Nat} (hm : s.mem.read a = t.mem.read a) (hd : s.draws = t.draws) :
    peek s a = peek t a := by
  unfold peek; rw [hm, hd]

/-- A byte that has been written is read as written. -/
theorem peek_of_read {s : State} {a : Nat} {b : Byte} (h : s.mem.read a = some b) : peek s a = b := by
  simp [peek, h]

/-! The commands' bodies. -/

/-- What OPEN can do (R161). -/
theorem openBody_cases (present : Bool) (s : State) :
    (s.opened = true ∧ openBody present s = .next (finish s))
      ∨ (s.opened = false ∧ addressOk s = false ∧ openBody present s = .next (raiseError .invalidSlaveAddress s))
      ∨ (s.opened = false ∧ addressOk s = true ∧ present = false ∧
          openBody present s = .next (raiseError .portUnavailable s))
      ∨ (s.opened = false ∧ addressOk s = true ∧ present = true ∧
          openBody present s = .next (finish { s with opened := true })) := by
  unfold openBody
  cases s.opened <;> cases addressOk s <;> cases present <;> simp

/-- What BUILD can do (R122). -/
theorem buildBody_cases (s : State) :
    (addressOk s = false ∧ buildBody s = .next (raiseError .invalidSlaveAddress s))
      ∨ (addressOk s = true ∧ buildBody s = .next (finish (buildRequest s))) := by
  unfold buildBody
  cases addressOk s <;> simp

/-- What DECODE can do (R210). -/
theorem decodeBody_cases (s : State) :
    (s.regN ≠ 2#8 ∧ decodeBody s = .next (raiseError .wrongRegisterCount s))
      ∨ (s.regN = 2#8 ∧ decodeBody s = .next (finish { s with floatResult := regVal s 0 ++ regVal s 1 })) := by
  unfold decodeBody
  by_cases h : s.regN = 2#8 <;> simp [h]

/-- What CRC can do (R130). -/
theorem crcBody_cases (s : State) :
    (rxBufSize < s.rxLen.toNat ∧ crcBody s = .fault (.noRxBufEntry (s.rxLen.toNat - 1)))
      ∨ (s.rxLen.toNat ≤ rxBufSize ∧
          crcBody s = .next (finish { s with crcResult := crc16 (rxFrame s s.rxLen.toNat) })) := by
  unfold crcBody
  by_cases h : rxBufSize < s.rxLen.toNat
  · exact .inl ⟨h, by simp [h]⟩
  · exact .inr ⟨by omega, by simp [h]⟩

/-- What EXCHANGE can do at its accept step (R164). -/
theorem exchangeBody_cases (s : State) :
    (s.opened = false ∧ exchangeBody s = .next (raiseError .notOpen s))
      ∨ (s.opened = true ∧ s.txLen = 0#4 ∧ exchangeBody s = .next { startExchange s with phase := .rx })
      ∨ (s.opened = true ∧ s.txLen ≠ 0#4 ∧ exchangeBody s = .next { startExchange s with phase := .tx }) := by
  unfold exchangeBody
  cases s.opened <;> by_cases h : s.txLen = 0#4 <;> simp [h]

/-- What XFER can do at its accept step (R230). -/
theorem xferBody_cases (s : State) :
    (s.opened = false ∧ xferBody s = .next (raiseError .notOpen s))
      ∨ (s.opened = true ∧ addressOk s = false ∧ xferBody s = .next (raiseError .invalidSlaveAddress s))
      ∨ (s.opened = true ∧ addressOk s = true ∧
          xferBody s = .next { startExchange (buildRequest s) with phase := .tx }) := by
  unfold xferBody
  cases s.opened <;> cases addressOk s <;> simp

/-- The checks (3) to (6) of PARSE, in order (R124). -/
theorem parseHeader_cases (len : Nat) (s : State) :
    (rxBuf s 0 ≠ s.slaveAddr ∧ parseHeader len s = parseFail .addressMismatch s)
      ∨ (rxBuf s 0 = s.slaveAddr ∧ (rxBuf s 1).getLsbD 7 = true ∧
          parseHeader len s = parseFail (.exceptionResponse (rxBuf s 2)) s)
      ∨ (rxBuf s 0 = s.slaveAddr ∧ (rxBuf s 1).getLsbD 7 = false ∧ (rxBuf s 2).toNat ≠ 2 * s.regCount.toNat ∧
          parseHeader len s = parseFail .byteCountMismatch s)
      ∨ (rxBuf s 0 = s.slaveAddr ∧ (rxBuf s 1).getLsbD 7 = false ∧ (rxBuf s 2).toNat = 2 * s.regCount.toNat ∧
          len < 5 + 2 * s.regCount.toNat ∧ parseHeader len s = parseFail .frameTooShort s)
      ∨ (rxBuf s 0 = s.slaveAddr ∧ (rxBuf s 1).getLsbD 7 = false ∧ (rxBuf s 2).toNat = 2 * s.regCount.toNat ∧
          5 + 2 * s.regCount.toNat ≤ len ∧ parseHeader len s = parseAccept s) := by
  unfold parseHeader
  by_cases h₁ : rxBuf s 0 = s.slaveAddr
  · cases h₂ : (rxBuf s 1).getLsbD 7
    · by_cases h₃ : (rxBuf s 2).toNat = 2 * s.regCount.toNat
      · by_cases h₄ : len < 5 + 2 * s.regCount.toNat
        · exact .inr (.inr (.inr (.inl ⟨h₁, rfl, h₃, h₄, by simp [h₁, h₃, h₄]⟩)))
        · exact .inr (.inr (.inr (.inr ⟨h₁, rfl, h₃, by omega, by simp [h₁, h₃, h₄]⟩)))
      · exact .inr (.inr (.inl ⟨h₁, rfl, h₃, by simp [h₁, h₃]⟩))
    · exact .inr (.inl ⟨h₁, rfl, by simp [h₁]⟩)
  · exact .inl ⟨h₁, by simp [h₁]⟩

/-- The state in which PARSE makes its checks (3) to (6): CRC_RESULT holds the recomputed CRC (R43). -/
def withCrcResult (s : State) : State := { s with crcResult := crc16 (rxFrame s (s.rxLen.toNat - 2)) }

/-- What PARSE can do (R124). -/
theorem parseBody_cases (s : State) :
    (s.rxLen.toNat < 5 ∧ parseBody s = .next (parseFail .frameTooShort s))
      ∨ (rxBufSize < s.rxLen.toNat ∧ parseBody s = .fault (.noRxBufEntry (s.rxLen.toNat - 1)))
      ∨ (5 ≤ s.rxLen.toNat ∧ s.rxLen.toNat ≤ rxBufSize ∧
          crc16 (rxFrame s (s.rxLen.toNat - 2)) ≠ trailer s s.rxLen.toNat ∧
          parseBody s = .next (parseFail .crcMismatch (withCrcResult s)))
      ∨ (5 ≤ s.rxLen.toNat ∧ s.rxLen.toNat ≤ rxBufSize ∧
          crc16 (rxFrame s (s.rxLen.toNat - 2)) = trailer s s.rxLen.toNat ∧
          parseBody s = .next (parseHeader s.rxLen.toNat (withCrcResult s))) := by
  unfold parseBody withCrcResult
  by_cases h₁ : s.rxLen.toNat < 5
  · exact .inl ⟨h₁, by simp [h₁]⟩
  · by_cases h₂ : rxBufSize < s.rxLen.toNat
    · exact .inr (.inl ⟨h₂, by simp [h₁, h₂]⟩)
    · by_cases h₃ : crc16 (rxFrame s (s.rxLen.toNat - 2)) = trailer s s.rxLen.toNat
      · exact .inr (.inr (.inr ⟨by omega, by omega, h₃, by simp [h₁, h₂, h₃]⟩))
      · exact .inr (.inr (.inl ⟨by omega, by omega, h₃, by simp [h₁, h₂, h₃]⟩))

/-! The events of an exchange. -/

/-- What a TxAccept can do (R165, R167). -/
theorem txAccept_cases (s : State) :
    (s.phase ≠ .tx ∧ txAccept s = .next s)
      ∨ (s.phase = .tx ∧ s.txIdx < s.txLen.toNat ∧ txAccept s = .next (sendByte s))
      ∨ (s.phase = .tx ∧ s.txLen.toNat ≤ s.txIdx ∧ txAccept s = .fault .noByteOnOffer) := by
  unfold txAccept txValid
  by_cases h₁ : s.phase = .tx
  · by_cases h₂ : s.txIdx < s.txLen.toNat
    · simp [h₁, h₂]
    · simp [h₁, h₂]; omega
  · simp [h₁]

/-- What a TxError can do (R166, R167). -/
theorem txError_cases (s : State) :
    (s.phase ≠ .tx ∧ txError s = .next s) ∨ (s.phase = .tx ∧ txError s = .next (raiseError .ioError s)) := by
  unfold txError
  by_cases h : s.phase = .tx <;> simp [h]

/-- What an RxByte can do (R168, R170, R171). -/
theorem rxByte_cases (b : Byte) (err : Bool) (s : State) :
    (s.phase ≠ .rx ∧ rxByte b err s = .next s)
      ∨ (s.phase = .rx ∧ err = true ∧ rxByte b err s = .next (raiseError .ioError s))
      ∨ (s.phase = .rx ∧ err = false ∧ rxBufSize ≤ s.rxLen.toNat ∧
          rxByte b err s = .fault (.noRxBufEntry s.rxLen.toNat))
      ∨ (s.phase = .rx ∧ err = false ∧ s.rxLen.toNat < rxBufSize ∧
          frameComplete (storeRxByte b s) (storeRxByte b s).rxLen.toNat = false ∧
          rxByte b err s = .next (storeRxByte b s))
      ∨ (s.phase = .rx ∧ err = false ∧ s.rxLen.toNat < rxBufSize ∧
          frameComplete (storeRxByte b s) (storeRxByte b s).rxLen.toNat = true ∧
          rxByte b err s = frameDone (storeRxByte b s)) := by
  unfold rxByte
  by_cases h₁ : s.phase = .rx
  · cases err
    · by_cases h₂ : rxBufSize ≤ s.rxLen.toNat
      · exact .inr (.inr (.inl ⟨h₁, rfl, h₂, by simp [h₁, h₂]⟩))
      · cases h₃ : frameComplete (storeRxByte b s) (storeRxByte b s).rxLen.toNat
        · exact .inr (.inr (.inr (.inl ⟨h₁, rfl, by omega, rfl, by simp only [h₁, h₂, h₃]; rfl⟩)))
        · exact .inr (.inr (.inr (.inr ⟨h₁, rfl, by omega, rfl, by simp only [h₁, h₂, h₃]; rfl⟩)))
    · exact .inr (.inl ⟨h₁, rfl, by simp [h₁]⟩)
  · exact .inl ⟨h₁, by simp [h₁]⟩

/-- What a Tick can do (R172, R173). -/
theorem tick_cases (s : State) :
    (s.phase = .idle ∧ tick s = .next s)
      ∨ (s.phase ≠ .idle ∧ s.timer + 1#32 = s.timeoutTicks ∧
          tick s = .next (raiseError .timeout { s with timer := s.timer + 1#32 }))
      ∨ (s.phase ≠ .idle ∧ s.timer + 1#32 ≠ s.timeoutTicks ∧
          tick s = .next { s with timer := s.timer + 1#32 }) := by
  unfold tick
  by_cases h₁ : s.phase = .idle
  · simp [h₁]
  · by_cases h₂ : s.timer + 1#32 = s.timeoutTicks <;> simp [h₁, h₂]

/-- RX_LEN counts the byte stored (R168); it never passes 260. -/
theorem storeRxByte_len (b : Byte) {s : State} (h : s.rxLen.toNat < rxBufSize) :
    (storeRxByte b s).rxLen.toNat = s.rxLen.toNat + 1 := by
  unfold rxBufSize at h
  simp only [storeRxByte_rxLen, BitVec.toNat_add, BitVec.toNat_ofNat]
  omega

end Sys2Proof.Machine
end

