-- ==== Sys2Proof/Laws/Frames.lean ====
section
/-! SUPPORT. What the operations of an exchange leave unchanged. -/

namespace Sys2Proof.Machine

/-- The fields that neither the receiver nor PARSE writes. -/
def sameOutsideReception (s t : State) : Prop :=
  t.txIdx = s.txIdx ∧ t.opened = s.opened ∧ t.cmdRej = s.cmdRej ∧ t.lastOp = s.lastOp ∧ t.slaveAddr = s.slaveAddr
    ∧ t.startReg = s.startReg ∧ t.regCount = s.regCount ∧ t.timeoutTicks = s.timeoutTicks ∧ t.timer = s.timer
    ∧ t.txLen = s.txLen ∧ t.floatResult = s.floatResult ∧ t.bus = s.bus ∧ t.input = s.input
    ∧ t.phyLevel = s.phyLevel ∧ t.wireOut = s.wireOut

theorem sameOutsideReception.refl (s : State) : sameOutsideReception s s :=
  ⟨rfl, rfl, rfl, rfl, rfl, rfl, rfl, rfl, rfl, rfl, rfl, rfl, rfl, rfl, rfl⟩

theorem sameOutsideReception.trans {s t u : State} (h₁ : sameOutsideReception s t) (h₂ : sameOutsideReception t u) :
    sameOutsideReception s u := by
  unfold sameOutsideReception at *
  obtain ⟨a₁, a₂, a₃, a₄, a₅, a₆, a₇, a₈, a₉, a₁₀, a₁₁, a₁₂, a₁₃, a₁₄, a₁₅⟩ := h₁
  obtain ⟨b₁, b₂, b₃, b₄, b₅, b₆, b₇, b₈, b₉, b₁₀, b₁₁, b₁₂, b₁₃, b₁₄, b₁₅⟩ := h₂
  exact ⟨b₁.trans a₁, b₂.trans a₂, b₃.trans a₃, b₄.trans a₄, b₅.trans a₅, b₆.trans a₆, b₇.trans a₇, b₈.trans a₈,
    b₉.trans a₉, b₁₀.trans a₁₀, b₁₁.trans a₁₁, b₁₂.trans a₁₂, b₁₃.trans a₁₃, b₁₄.trans a₁₄, b₁₅.trans a₁₅⟩

/-- A failed PARSE check: IDLE, DONE, the error, REG_N = 0; the buffers, RX_LEN and RESP_HDR as they were. -/
theorem parseFail_frame (e : ErrorCode) (s : State) :
    sameOutsideReception s (parseFail e s) ∧ (parseFail e s).phase = .idle ∧ (parseFail e s).done = true
      ∧ (parseFail e s).mem = s.mem ∧ (parseFail e s).rxLen = s.rxLen ∧ (parseFail e s).respHdr = s.respHdr
      ∧ (parseFail e s).draws = s.draws ∧ (parseFail e s).err = true ∧ (parseFail e s).errCode ≠ 0#8
      ∧ (parseFail e s).regN = 0#8 := by
  refine ⟨sameOutsideReception.refl s, rfl, rfl, rfl, rfl, rfl, rfl, ?_, ?_, rfl⟩ <;> cases e <;>
    simp [codeNumber]

/-- What PARSE leaves unchanged, and that it ends the command: with an error the buffers and RESP_HDR too are as they
were, and without one (from a state without one) the payload has at most 127 registers. -/
theorem parseBody_frame {s t : State} (h : parseBody s = .next t) :
    sameOutsideReception s t ∧ t.phase = .idle ∧ t.done = true ∧ t.rxLen = s.rxLen ∧ t.draws = s.draws
      ∧ ((t.err = true ∧ t.errCode ≠ 0#8 ∧ t.regN = 0#8 ∧ t.mem = s.mem ∧ t.respHdr = s.respHdr)
        ∨ (t.errCode = s.errCode ∧ s.regCount.toNat ≤ 127
            ∧ t.mem = writeRegVals s.mem 0 ((List.range s.regCount.toNat).map (responseReg s)))) := by
  have fail : ∀ (e : ErrorCode) (u : State), sameOutsideReception s u → u.rxLen = s.rxLen → u.draws = s.draws →
      u.mem = s.mem → u.respHdr = s.respHdr → t = parseFail e u →
      sameOutsideReception s t ∧ t.phase = .idle ∧ t.done = true ∧ t.rxLen = s.rxLen ∧ t.draws = s.draws
        ∧ ((t.err = true ∧ t.errCode ≠ 0#8 ∧ t.regN = 0#8 ∧ t.mem = s.mem ∧ t.respHdr = s.respHdr)
          ∨ (t.errCode = s.errCode ∧ s.regCount.toNat ≤ 127
              ∧ t.mem = writeRegVals s.mem 0 ((List.range s.regCount.toNat).map (responseReg s)))) := by
    rintro e u hu h₁ h₂ h₃ h₄ rfl
    obtain ⟨f₁, f₂, f₃, f₄, f₅, f₆, f₇, f₈, f₉, f₁₀⟩ := parseFail_frame e u
    exact ⟨hu.trans f₁, f₂, f₃, f₅.trans h₁, f₇.trans h₂, .inl ⟨f₈, f₉, f₁₀, f₄.trans h₃, f₆.trans h₄⟩⟩
  rcases parseBody_cases s with ⟨-, e⟩ | ⟨-, e⟩ | ⟨-, -, -, e⟩ | ⟨-, -, -, e⟩ <;> rw [e] at h <;>
    simp only [Host.Outcome.next.injEq, reduceCtorEq] at h
  · exact fail _ s (sameOutsideReception.refl s) rfl rfl rfl rfl h.symm
  · exact fail _ (withCrcResult s) (sameOutsideReception.refl s) rfl rfl rfl rfl h.symm
  · rcases parseHeader_cases s.rxLen.toNat (withCrcResult s) with
      ⟨-, e⟩ | ⟨-, -, e⟩ | ⟨-, -, -, e⟩ | ⟨-, -, -, -, e⟩ | ⟨-, -, hn, -, e⟩ <;> rw [e] at h
    · exact fail _ (withCrcResult s) (sameOutsideReception.refl s) rfl rfl rfl rfl h.symm
    · exact fail _ (withCrcResult s) (sameOutsideReception.refl s) rfl rfl rfl rfl h.symm
    · exact fail _ (withCrcResult s) (sameOutsideReception.refl s) rfl rfl rfl rfl h.symm
    · exact fail _ (withCrcResult s) (sameOutsideReception.refl s) rfl rfl rfl rfl h.symm
    · have hb := (rxBuf (withCrcResult s) 2).isLt
      have hn' : s.regCount.toNat ≤ 127 := by
        have : (rxBuf (withCrcResult s) 2).toNat = 2 * s.regCount.toNat := hn
        omega
      rw [← h]
      exact ⟨sameOutsideReception.refl s, rfl, rfl, rfl, rfl, .inr ⟨rfl, hn', rfl⟩⟩

/-- The code a PARSE ends with: the one it started with when every check passes, else one of R250's five PARSE codes. -/
theorem parseBody_code {s t : State} (h : parseBody s = .next t) :
    t.errCode = s.errCode ∨ t.errCode ∈ [0x10#8, 0x11#8, 0x12#8, 0x13#8, 0x14#8] := by
  rcases parseBody_cases s with ⟨-, e⟩ | ⟨-, e⟩ | ⟨-, -, -, e⟩ | ⟨-, -, -, e⟩ <;> rw [e] at h <;> cases h
  · right; simp [codeNumber]
  · right; simp [codeNumber]
  · rcases parseHeader_cases s.rxLen.toNat (withCrcResult s) with
      ⟨-, e⟩ | ⟨-, -, e⟩ | ⟨-, -, -, e⟩ | ⟨-, -, -, -, e⟩ | ⟨-, -, -, -, e⟩ <;> rw [e]
    · right; simp [codeNumber]
    · right; simp [codeNumber]
    · right; simp [codeNumber]
    · right; simp [codeNumber]
    · exact .inl rfl

/-- What an RxByte leaves unchanged, in every case. -/
theorem rxByte_frame {b : Byte} {err : Bool} {s t : State} (h : rxByte b err s = .next t) :
    sameOutsideReception s t ∧ t.draws = s.draws ∧ (t.phase = s.phase ∨ t.phase = .idle) := by
  rcases rxByte_cases b err s with ⟨-, e⟩ | ⟨-, -, e⟩ | ⟨-, -, -, e⟩ | ⟨hp, -, -, -, e⟩ | ⟨-, -, -, -, e⟩ <;>
    rw [e] at h
  · cases h; exact ⟨sameOutsideReception.refl s, rfl, .inl rfl⟩
  · cases h; exact ⟨sameOutsideReception.refl s, rfl, .inr rfl⟩
  · cases h
  · cases h; exact ⟨sameOutsideReception.refl s, rfl, .inl rfl⟩
  · unfold frameDone at h
    split at h
    · obtain ⟨f₁, f₂, -, -, f₅, -⟩ := parseBody_frame h
      exact ⟨f₁, f₅, .inr f₂⟩
    · cases h; exact ⟨sameOutsideReception.refl s, rfl, .inr rfl⟩

/-- What bytes received one after another leave unchanged: each takes one draw. -/
theorem rxBytes_frame {bs : List Byte} {s t : State} (h : rxBytes bs s = .next t) :
    sameOutsideReception s t ∧ t.draws = s.draws + bs.length ∧ (t.phase = s.phase ∨ t.phase = .idle) := by
  induction bs generalizing s with
  | nil => cases h; exact ⟨sameOutsideReception.refl _, rfl, .inl rfl⟩
  | cons b bs ih =>
    rw [rxBytes_cons, andThen_eq_next] at h
    obtain ⟨u, h₁, h₂⟩ := h
    obtain ⟨f₁, f₂, f₃⟩ := rxByte_frame h₁
    obtain ⟨g₁, g₂, g₃⟩ := ih h₂
    refine ⟨(show sameOutsideReception s u from f₁).trans g₁, ?_, ?_⟩
    · rw [g₂, f₂, nextDraw_draws, List.length_cons]; omega
    · rcases g₃ with g₃ | g₃
      · rcases f₃ with f₃ | f₃
        · exact .inl (g₃.trans f₃)
        · exact .inr (g₃.trans f₃)
      · exact .inr g₃

/-- Bytes received outside the RX phase are dropped (R171): only draws are counted. -/
theorem rxBytes_dropped (bs : List Byte) {s : State} (h : s.phase ≠ .rx) :
    rxBytes bs s = .next { s with draws := s.draws + bs.length } := by
  induction bs generalizing s with
  | nil => rfl
  | cons b bs ih =>
    have e : rxByte b false (nextDraw s) = .next (nextDraw s) := by
      simp [rxByte, h]
    rw [rxBytes_cons, e, andThen_next, ih (by simpa using h)]
    simp only [nextDraw, List.length_cons]
    have : s.draws + 1 + bs.length = s.draws + (bs.length + 1) := by omega
    rw [this]

/-- The bytes stored one after another, each with its draw, with no look at completion (R168). -/
def storeRxBytes : List Byte → State → State
  | [], s => s
  | b :: bs, s => storeRxBytes bs (storeRxByte b (nextDraw s))

/-- Everything `storeRxBytes` does: RX_LEN counts the bytes, they stand in RXBUF, nothing else changes but the draws. -/
theorem storeRxBytes_spec (bs : List Byte) {s : State} (h : s.rxLen.toNat + bs.length ≤ rxBufSize) :
    storeRxBytes bs s = { s with rxLen := BitVec.ofNat 9 (s.rxLen.toNat + bs.length)
                                 draws := s.draws + bs.length
                                 mem := (storeRxBytes bs s).mem }
      ∧ (∀ k, k < bs.length → (storeRxBytes bs s).mem.read (rxAddr (s.rxLen.toNat + k)) = bs[k]?)
      ∧ ∀ a, (∀ k, k < bs.length → a ≠ rxAddr (s.rxLen.toNat + k)) → (storeRxBytes bs s).mem.read a = s.mem.read a := by
  induction bs generalizing s with
  | nil => simp [storeRxBytes]
  | cons b bs ih =>
    simp only [List.length_cons] at h
    have hl : (storeRxByte b (nextDraw s)).rxLen.toNat = s.rxLen.toNat + 1 :=
      storeRxByte_len b (s := nextDraw s) (by simp; omega)
    obtain ⟨h₁, h₂, h₃⟩ := ih (s := storeRxByte b (nextDraw s)) (by rw [hl]; omega)
    rw [hl] at h₁ h₂ h₃
    simp only [storeRxBytes, List.length_cons]
    refine ⟨?_, ?_, ?_⟩
    · rw [h₁]
      simp only [storeRxByte, nextDraw]
      have e₁ : s.rxLen.toNat + 1 + bs.length = s.rxLen.toNat + (bs.length + 1) := by omega
      have e₂ : s.draws + 1 + bs.length = s.draws + (bs.length + 1) := by omega
      rw [e₁, e₂]
    · intro k hk
      cases k with
      | zero =>
        rw [h₃]
        · simp [storeRxByte]
        · intro k _; apply rxAddr_ne; omega
      | succ k =>
        have := h₂ k (by omega)
        rw [show s.rxLen.toNat + (k + 1) = s.rxLen.toNat + 1 + k by omega, this]
        simp
    · intro a ha
      rw [h₃]
      · exact Memory.read_write_other _ _ (by simpa using ha 0 (by omega))
      · intro k hk
        have := ha (k + 1) (by omega)
        rwa [show s.rxLen.toNat + (k + 1) = s.rxLen.toNat + 1 + k by omega] at this

/-- Bytes that complete no frame on the way are only stored (R168). -/
theorem rxBytes_incomplete (bs : List Byte) {s : State} (hp : s.phase = .rx)
    (hl : s.rxLen.toNat + bs.length ≤ rxBufSize)
    (hc : ∀ n, n < bs.length → frameComplete (storeRxBytes (bs.take (n + 1)) s) (s.rxLen.toNat + (n + 1)) = false) :
    rxBytes bs s = .next (storeRxBytes bs s) := by
  induction bs generalizing s with
  | nil => rfl
  | cons b bs ih =>
    simp only [List.length_cons] at hl hc
    have hlen : (storeRxByte b (nextDraw s)).rxLen.toNat = s.rxLen.toNat + 1 :=
      storeRxByte_len b (s := nextDraw s) (by simp; omega)
    have h0 := hc 0 (by omega)
    simp only [List.take_succ_cons, List.take_zero, storeRxBytes] at h0
    have : rxByte b false (nextDraw s) = .next (storeRxByte b (nextDraw s)) := by
      rcases rxByte_cases b false (nextDraw s) with ⟨h, -⟩ | ⟨-, h, -⟩ | ⟨-, -, h, -⟩ | ⟨-, -, -, -, e⟩ | ⟨-, -, -, h, -⟩
      · exact absurd hp h
      · cases h
      · simp at h; omega
      · exact e
      · rw [hlen] at h; rw [h] at h0; cases h0
    rw [rxBytes_cons, this, andThen_next, ih (s := storeRxByte b (nextDraw s)) hp (by rw [hlen]; omega)]
    · rfl
    · intro n hn
      have := hc (n + 1) (by omega)
      rw [hlen]
      rw [show s.rxLen.toNat + 1 + (n + 1) = s.rxLen.toNat + (n + 1 + 1) by omega]
      simpa [storeRxBytes] using this

/-- The length of a response by its header (R100). -/
theorem responseLength_cons (a f b : Byte) (rest : List Byte) :
    responseLength (a :: f :: b :: rest) = if f.getLsbD 7 then 5 else 5 + b.toNat := rfl

/-- A whole response from an empty RXBUF completes with its last byte and not before (R169). -/
theorem rxBytes_response (bs : List Byte) {s : State} (hp : s.phase = .rx) (h0 : s.rxLen = 0#9)
    (hl : bs.length = responseLength bs) : rxBytes bs s = frameDone (storeRxBytes bs s) := by
  have h5 : 5 ≤ bs.length := by
    rw [hl]; unfold responseLength; split
    · split <;> omega
    · omega
  have h260 : bs.length ≤ 260 := by
    rw [hl]; unfold responseLength; split
    · split
      · omega
      · rename_i b _ _; have := b.isLt; omega
    · omega
  have hr : s.rxLen.toNat = 0 := by rw [h0]; rfl
  obtain ⟨a, f, b, rest, rfl⟩ : ∃ a f b rest, bs = a :: f :: b :: rest := by
    match bs, h5 with
    | a :: f :: b :: rest, _ => exact ⟨a, f, b, rest, rfl⟩
  set bs := a :: f :: b :: rest with hbs
  rw [hbs, responseLength_cons, ← hbs] at hl
  have comp : ∀ n, n ≤ bs.length → 0 < n → (frameComplete (storeRxBytes (bs.take n) s) n = true ↔ n = bs.length) := by
    intro n hn hn0
    have hlen : (bs.take n).length = n := by simp; omega
    obtain ⟨-, hr', -⟩ := storeRxBytes_spec (bs.take n) (s := s) (by rw [hlen, hr]; unfold rxBufSize; omega)
    rw [hlen, hr] at hr'
    have g : ∀ k, k < n → k < bs.length → ∀ x, bs[k]? = some x → rxBuf (storeRxBytes (bs.take n) s) k = x := by
      intro k hk hk' x hx
      apply peek_of_read
      have := hr' k hk
      rw [Nat.zero_add] at this
      rw [this, List.getElem?_take]; simp [hk, hx]
    unfold frameComplete
    by_cases h2 : 2 ≤ n
    · have g1 := g 1 (by omega) (by omega) f rfl
      rw [g1]
      by_cases h3 : 3 ≤ n
      · have g2 := g 2 (by omega) (by omega) b rfl
        rw [g2]
        cases hf : f.getLsbD 7
        · rw [hf, if_neg (by simp)] at hl
          simp only [h2, h3, decide_true, Bool.and_false, Bool.false_and, Bool.false_or, Bool.not_false, Bool.true_and,
            decide_eq_true_eq, hl]
        · rw [hf, if_pos rfl] at hl
          simp only [h2, h3, decide_true, Bool.and_false, Bool.false_and, Bool.not_true, Bool.true_and, Bool.or_false,
            decide_eq_true_eq, hl]
      · have : n = 2 := by omega
        subst this
        simp; omega
    · have : n = 1 := by omega
      subst this
      simp; omega
  have split : bs = bs.take (bs.length - 1) ++ [bs[bs.length - 1]] := by
    conv_lhs => rw [← List.take_append_drop (bs.length - 1) bs]
    congr 1
    rw [List.drop_eq_getElem_cons (by omega), show bs.length - 1 + 1 = bs.length by omega, List.drop_length]
  have front : rxBytes (bs.take (bs.length - 1)) s = .next (storeRxBytes (bs.take (bs.length - 1)) s) := by
    apply rxBytes_incomplete _ hp
    · rw [hr, List.length_take]; unfold rxBufSize; omega
    · intro n hn
      simp only [List.length_take] at hn
      rw [List.take_take, Nat.min_eq_left (by omega), hr, Nat.zero_add]
      have := comp (n+1) (by omega) (by omega)
      have hne : ¬ (n + 1 = bs.length) := by omega
      rw [← this] at hne
      simpa using hne
  have storeApp : ∀ (xs : List Byte) (y : Byte) (t : State), storeRxBytes (xs ++ [y]) t = storeRxByte y (nextDraw (storeRxBytes xs t)) := by
    intro xs y
    induction xs with
    | nil => intro t; rfl
    | cons x xs ih => intro t; exact ih _
  set xs := bs.take (bs.length - 1) with hxs
  set y := bs[bs.length - 1] with hy
  have hlx : xs.length = bs.length - 1 := by simp [hxs]
  have sp := (storeRxBytes_spec xs (s := s) (by rw [hlx, hr]; unfold rxBufSize; omega)).1
  have hpx : (storeRxBytes xs s).phase = .rx := by rw [sp]; exact hp
  have hlx' : (storeRxBytes xs s).rxLen.toNat = bs.length - 1 := by
    rw [sp]; simp [hr, hlx]; omega
  have hfull := (comp bs.length (le_refl _) (by omega)).2 rfl
  rw [List.take_length] at hfull
  rw [split, storeApp] at hfull
  have hlen' : (xs ++ [y]).length = bs.length := by rw [← split]
  rw [hlen'] at hfull
  rw [split, rxBytes_append, front, andThen_next, storeApp, rxBytes_cons]
  rcases rxByte_cases y false (nextDraw (storeRxBytes xs s)) with ⟨h, -⟩ | ⟨-, h, -⟩ | ⟨-, -, h, -⟩ | ⟨-, -, -, h, -⟩ | ⟨-, -, -, -, e⟩
  · exact absurd hpx h
  · cases h
  · simp only [nextDraw_rxLen, hlx', rxBufSize] at h; omega
  · rw [storeRxByte_len y (s := nextDraw (storeRxBytes xs s)) (by simp only [nextDraw_rxLen, hlx', rxBufSize]; omega), nextDraw_rxLen, hlx', show bs.length - 1 + 1 = bs.length by omega, hfull] at h; cases h
  · rw [e]
    cases frameDone (storeRxByte y (nextDraw (storeRxBytes xs s))) <;> rfl

end Sys2Proof.Machine
end

