-- ==== Sys2Proof/Laws/PerInstr.lean ====
section
/-! SUPPORT. The opcode table, row by row, and that the encoder keeps to it. -/

namespace Sys2Proof.Laws.TableRow

/-- A row of spec/opcode_table.json: the bits it fixes, as a mask and a value for the command word, or for each of the
first bytes of a frame. -/
inductive Row where
  | command (mask value : Word)
  | frame (kind : FrameKind) (bytes : List (Byte × Byte))
deriving DecidableEq, Repr

/-- The row of each instruction, written out from the table's match and mask. -/
def row : Instr → Row
  | .openPort => .command 0xFFFFFFFF#32 0x00000001#32
  | .closePort => .command 0xFFFFFFFF#32 0x00000002#32
  | .build => .command 0xFFFFFFFF#32 0x00000003#32
  | .exchange => .command 0xFFFFFFFF#32 0x00000004#32
  | .parse => .command 0xFFFFFFFF#32 0x00000005#32
  | .decode => .command 0xFFFFFFFF#32 0x00000006#32
  | .crc => .command 0xFFFFFFFF#32 0x00000007#32
  | .xfer => .command 0xFFFFFFFF#32 0x00000008#32
  | .reqReadHolding _ _ _ _ =>
      .frame .request [(0x00, 0x00), (0xFF, 0x03), (0, 0), (0, 0), (0, 0), (0, 0), (0, 0), (0, 0)]
  | .respReadHolding _ _ _ _ _ => .frame .response [(0x00, 0x00), (0x80, 0x00), (0x00, 0x00)]
  | .respException _ _ _ _ => .frame .response [(0, 0), (0x80, 0x80), (0, 0), (0, 0), (0, 0)]

/-- The first bytes of a frame hold the bits fixed for them. -/
def bytesMatch : List (Byte × Byte) → List Byte → Bool
  | [], _ => true
  | (mask, value) :: rest, b :: bs => decide (b &&& mask = value) && bytesMatch rest bs
  | _ :: _, [] => false

/-- A code keeps to a row. -/
def rowMatches : Row → Code → Bool
  | .command mask value, .command w => decide (w &&& mask = value)
  | .frame kind bytes, .frame kind' bs => decide (kind = kind') && bytesMatch bytes bs
  | .command _ _, .frame _ _ => false
  | .frame _ _, .command _ => false

/-- The encoding of an instruction keeps to its row of the table. -/
def Statement (i : Instr) : Prop := rowMatches (row i) (encode i) = true

theorem openPort : Statement .openPort := by unfold Statement; decide
theorem closePort : Statement .closePort := by unfold Statement; decide
theorem build : Statement .build := by unfold Statement; decide
theorem exchange : Statement .exchange := by unfold Statement; decide
theorem parse : Statement .parse := by unfold Statement; decide
theorem decode : Statement .decode := by unfold Statement; decide
theorem crc : Statement .crc := by unfold Statement; decide
theorem xfer : Statement .xfer := by unfold Statement; decide

theorem reqReadHolding (slave : Byte) (start count check : Half) :
    Statement (.reqReadHolding slave start count check) := by
  simp [Statement, row, encode, requestFrame, Machine.requestBody, rowMatches, bytesMatch]

theorem normal_function_byte : ∀ f : BitVec 7, (0#1 ++ f) &&& 0x80#8 = 0#8 := by decide

theorem exception_function_byte : ∀ f : BitVec 7, (1#1 ++ f) &&& 0x80#8 = 0x80#8 := by decide

theorem respReadHolding (slave : Byte) (func : BitVec 7) (byteCount : Byte) (payload : List Byte) (check : Half) :
    Statement (.respReadHolding slave func byteCount payload check) := by
  have h := normal_function_byte func
  simp only [Nat.reduceAdd] at h
  simp [Statement, row, encode, responseFrame, rowMatches, bytesMatch, h]

theorem respException (slave : Byte) (func : BitVec 7) (code : Byte) (check : Half) :
    Statement (.respException slave func code check) := by
  have h := exception_function_byte func
  simp only [Nat.reduceAdd] at h
  simp [Statement, row, encode, exceptionFrame, rowMatches, bytesMatch, h]

end Sys2Proof.Laws.TableRow
end

