-- ==== Sys2Proof/Laws/Runs.lean ====
section
/-! SUPPORT. What the steps of a frame do together: the first byte in the instruction's step, the others in the steps that
follow (00_scope.md R13). -/

namespace Sys2Proof.Machine

/-- The same state with another script. -/
def withInput (r : List Input) (s : State) : State := { s with input := r }

/-- The same outcome with another script. -/
def outcomeWithInput (r : List Input) : Result → Result
  | .next s => .next (withInput r s)
  | .fault f => .fault f
  | .refused f => .refused f

/-- A step on an event is that event's rule. -/
theorem step_event {s : State} {e : Event} {rest : List Input} (h : s.input = .event e :: rest) :
    step s = handleEvent e { s with input := rest } := by
  unfold step fetchAndHandle; rw [h]; rfl

/-- PARSE does not look at the script. -/
theorem parseHeader_withInput (r : List Input) (len : Nat) (s : State) :
    parseHeader len (withInput r s) = withInput r (parseHeader len s) := by
  unfold parseHeader
  simp only [apply_ite (withInput r)]
  rfl

theorem parseBody_withInput (r : List Input) (s : State) :
    parseBody (withInput r s) = outcomeWithInput r (parseBody s) := by
  unfold parseBody
  simp only [apply_ite (outcomeWithInput r)]
  refine if_congr Iff.rfl rfl (if_congr Iff.rfl rfl (if_congr Iff.rfl rfl ?_))
  exact congrArg Host.Outcome.next
    (parseHeader_withInput r s.rxLen.toNat { s with crcResult := crc16 (rxFrame s (s.rxLen.toNat - 2)) })

theorem frameDone_withInput (r : List Input) (s : State) :
    frameDone (withInput r s) = outcomeWithInput r (frameDone s) := by
  unfold frameDone
  have : isXfer (withInput r s) = isXfer s := rfl
  rw [this]
  cases isXfer s
  · rfl
  · exact parseBody_withInput r s

/-- The receiver does not look at the script. -/
theorem rxByte_withInput (r : List Input) (b : Byte) (err : Bool) (s : State) :
    rxByte b err (withInput r s) = outcomeWithInput r (rxByte b err s) := by
  unfold rxByte
  simp only [apply_ite (outcomeWithInput r), ← frameDone_withInput]
  rfl

/-- The transmitter does not look at the script. -/
theorem txAccept_withInput (r : List Input) (s : State) :
    txAccept (withInput r s) = outcomeWithInput r (txAccept s) := by
  rcases txAccept_cases s with ⟨h, e⟩ | ⟨h, h₁, e⟩ | ⟨h, h₁, e⟩ <;>
    rcases txAccept_cases (withInput r s) with ⟨g, f⟩ | ⟨g, g₁, f⟩ | ⟨g, g₁, f⟩ <;> rw [e, f] <;>
    first
      | rfl
      | exact absurd h g
      | exact absurd g h
      | exact absurd (show s.txIdx < s.txLen.toNat from h₁) (Nat.not_lt.2 g₁)
      | exact absurd (show s.txIdx < s.txLen.toNat from g₁) (Nat.not_lt.2 h₁)

theorem andThen_outcomeWithInput (r : List Input) (o : Result) (f g : State → Result)
    (h : ∀ s, f (withInput r s) = g s) : andThen (outcomeWithInput r o) f = andThen o g := by
  cases o with
  | next s => exact h s
  | fault q => rfl
  | refused q => rfl

/-- One more step of a run. -/
theorem run_succ (k : Nat) (s : State) :
    Host.Core.run Sys2Proof.core (k + 1) s = andThen (step s) (Host.Core.run Sys2Proof.core k) := by
  have h : Sys2Proof.core.step s = step s := rfl
  simp only [Host.Core.run, h]
  cases step s <;> rfl

/-- A run whose first step answers a next state goes on from there. -/
theorem run_next {s t : State} (k : Nat) (h : step s = .next t) :
    Host.Core.run Sys2Proof.core (k + 1) s = Host.Core.run Sys2Proof.core k t := by
  rw [run_succ, h]; rfl

/-- The steps of bytes that stand first in the script are the bytes one after another. -/
theorem run_rxBytes (bs : List Byte) (s : State) (rest : List Input) :
    Host.Core.run Sys2Proof.core bs.length { s with input := bs.map rxByteItem ++ rest } = rxBytes bs (withInput rest s) := by
  induction bs generalizing s with
  | nil => rfl
  | cons b bs ih =>
    rw [List.length_cons, run_succ, step_event rfl, rxBytes_cons]
    show andThen (rxByte b false (withInput (bs.map rxByteItem ++ rest) (nextDraw s))) _
      = andThen (rxByte b false (withInput rest (nextDraw s))) _
    rw [rxByte_withInput, rxByte_withInput]
    cases rxByte b false (nextDraw s) with
    | next t => exact ih t
    | fault q => rfl
    | refused q => rfl

/-- The steps of TxAccepts that stand first in the script are the TxAccepts one after another. -/
theorem run_txAccepts (n : Nat) (s : State) (rest : List Input) :
    Host.Core.run Sys2Proof.core n { s with input := List.replicate n txAcceptItem ++ rest }
      = txAccepts n (withInput rest s) := by
  induction n generalizing s with
  | zero => rfl
  | succ n ih =>
    rw [run_succ, step_event rfl, txAccepts_succ]
    show andThen (txAccept (withInput (List.replicate n txAcceptItem ++ rest) (nextDraw s))) _
      = andThen (txAccept (withInput rest (nextDraw s))) _
    rw [txAccept_withInput, txAccept_withInput]
    cases txAccept (nextDraw s) with
    | next t => exact ih t
    | fault q => rfl
    | refused q => rfl

/-- A frame's first byte and the steps of its other bytes together: when the bytes one after another end in `t`, the
instruction answers a next state, its first byte handled, and as many steps as bytes are left lead to `t`. -/
theorem receiveBytes_run {b : Byte} {bs : List Byte} {s t : State} (h : rxBytes (b :: bs) s = .next t) :
    ∃ u, receiveBytes (b :: bs) s = .next (withInput (bs.map rxByteItem ++ s.input) u)
      ∧ rxByte b false (nextDraw s) = .next u
      ∧ Host.Core.run Sys2Proof.core bs.length (withInput (bs.map rxByteItem ++ s.input) u) = .next t := by
  rw [rxBytes_cons, andThen_eq_next] at h
  obtain ⟨u, h₁, h₂⟩ := h
  have hi : u.input = s.input := (rxByte_frame h₁).1.2.2.2.2.2.2.2.2.2.2.2.2.1
  refine ⟨u, ?_, h₁, ?_⟩
  · show rxByte b false (withInput (bs.map rxByteItem ++ s.input) (nextDraw s)) = _
    rw [rxByte_withInput, h₁]; rfl
  · rw [show withInput (bs.map rxByteItem ++ s.input) u = { u with input := bs.map rxByteItem ++ s.input } from rfl,
      run_rxBytes, ← hi]
    exact h₂

/-- The first TxAccept of a request and the steps of the others together. -/
theorem acceptBytes_run {n : Nat} {s t : State} (h : txAccepts (n + 1) s = .next t) :
    ∃ u, acceptBytes (n + 1) s = .next (withInput (List.replicate n txAcceptItem ++ s.input) u)
      ∧ txAccept (nextDraw s) = .next u
      ∧ Host.Core.run Sys2Proof.core n (withInput (List.replicate n txAcceptItem ++ s.input) u) = .next t := by
  rw [txAccepts_succ, andThen_eq_next] at h
  obtain ⟨u, h₁, h₂⟩ := h
  have hi : u.input = s.input := by
    rcases txAccept_cases (nextDraw s) with ⟨-, e⟩ | ⟨-, -, e⟩ | ⟨-, -, e⟩ <;> rw [h₁] at e <;> cases e <;> rfl
  refine ⟨u, ?_, h₁, ?_⟩
  · show txAccept (withInput (List.replicate n txAcceptItem ++ s.input) (nextDraw s)) = _
    rw [txAccept_withInput, h₁]; rfl
  · rw [show withInput (List.replicate n txAcceptItem ++ s.input) u
        = { u with input := List.replicate n txAcceptItem ++ s.input } from rfl, run_txAccepts, ← hi]
    exact h₂

end Sys2Proof.Machine
end

