-- ==== Sys2Proof/Laws/Window.lean ====
section
/-! SUPPORT. What a host access can do: which offset is CMD or STATUS, and what an admitted write leaves unchanged. -/

namespace Sys2Proof.Machine

/-- The address check as a range (R101). -/
theorem addressOk_iff (s : State) : addressOk s = true ↔ 1 ≤ s.slaveAddr.toNat ∧ s.slaveAddr.toNat ≤ 247 := by
  simp [addressOk, slaveInRange]

/-- The only offset at which `singleReg k` stands is word `k` of the window, for CMD and STATUS (R23). -/
theorem admitted_single {offset : BitVec 12} {size : BitVec 3} {r : Reg} (hr : r = .cmd ∨ r = .status)
    (h : admitted offset size = some r) : size = 4#3 ∧ offset = BitVec.ofNat 12 (regOffset r) := by
  unfold admitted at h
  split at h
  · rename_i hz
    refine ⟨hz.1, ?_⟩
    unfold regOfWord at h
    split at h
    · rename_i hk
      have hq : offset.toNat = 4 * (offset.toNat / 4) := by omega
      generalize offset.toNat / 4 = q at h hk hq
      apply BitVec.eq_of_toNat_eq
      rw [hq]
      rcases hr with rfl | rfl
      · have : q = 0 := by
          by_contra hne
          interval_cases q <;> simp_all [singleReg]
        rw [this]; rfl
      · have : q = 1 := by
          by_contra hne
          interval_cases q <;> simp_all [singleReg]
        rw [this]; rfl
    · split at h
      · split at h
        · cases h; rcases hr with h | h <;> cases h
        · cases h
      · split at h
        · split at h
          · cases h; rcases hr with h | h <;> cases h
          · cases h
        · split at h
          · cases h; rcases hr with h | h <;> cases h
          · cases h
  · cases h

/-- Everything an admitted write to a register other than CMD leaves unchanged, whatever the register (R56, R64, R67). -/
theorem writeReg_frame (s : State) (v : Word) (r : Reg) :
    (writeReg s v r).phase = s.phase ∧ (writeReg s v r).txIdx = s.txIdx ∧ (writeReg s v r).opened = s.opened
      ∧ (writeReg s v r).done = s.done ∧ (writeReg s v r).err = s.err ∧ (writeReg s v r).lastOp = s.lastOp
      ∧ (writeReg s v r).errCode = s.errCode ∧ (writeReg s v r).excCode = s.excCode
      ∧ (writeReg s v r).timeoutTicks = s.timeoutTicks ∧ (writeReg s v r).timer = s.timer
      ∧ (writeReg s v r).txLen = s.txLen ∧ (writeReg s v r).crcResult = s.crcResult
      ∧ (writeReg s v r).respHdr = s.respHdr ∧ (writeReg s v r).floatResult = s.floatResult
      ∧ (writeReg s v r).bus = s.bus ∧ (writeReg s v r).input = s.input ∧ (writeReg s v r).phyLevel = s.phyLevel
      ∧ (writeReg s v r).draws = s.draws ∧ (writeReg s v r).wireOut = s.wireOut := by
  unfold writeReg
  split
  · exact ⟨rfl, rfl, rfl, rfl, rfl, rfl, rfl, rfl, rfl, rfl, rfl, rfl, rfl, rfl, rfl, rfl, rfl, rfl, rfl⟩
  · cases r <;>
      first
        | exact ⟨rfl, rfl, rfl, rfl, rfl, rfl, rfl, rfl, rfl, rfl, rfl, rfl, rfl, rfl, rfl, rfl, rfl, rfl, rfl⟩
        | (unfold storeReg; dsimp only; split <;>
            exact ⟨rfl, rfl, rfl, rfl, rfl, rfl, rfl, rfl, rfl, rfl, rfl, rfl, rfl, rfl, rfl, rfl, rfl, rfl, rfl⟩)

end Sys2Proof.Machine
end

