-- ==== Sys2Proof/Machine/Program.lean ====
section
/-! DEFINITION. The program notation of 30_encoding.md R102 to R105: each line as the input items it stands for. -/

namespace Sys2Proof.Machine

/-- `WR <REG>, <value>` (R102). -/
def wr (r : Reg) (v : Word) : Input := .event (.hostWrite (BitVec.ofNat 12 (regOffset r)) 4#3 v)

/-- `RD <REG>` (R102). -/
def rd (r : Reg) : Input := .event (.hostRead (BitVec.ofNat 12 (regOffset r)) 4#3)

/-- `CMD <MNEMONIC>` (R103), and for a wire frame the frame on the line. -/
def cmd (i : Instr) : Input := inputOfCode (encode i)

/-- `CLRREJ` (R103). -/
def clrRej : Input := wr .status 0x10#32

/-- The RXBUF writes of `LOADRX`, from index `i` on. -/
def loadRxFrom : Nat → List Byte → List Input
  | _, [] => []
  | i, b :: bs =>
      .event (.hostWrite (BitVec.ofNat 12 (rxAddr i)) 4#3 (b.zeroExtend 32)) :: loadRxFrom (i + 1) bs

/-- `LOADRX b0, …, bk-1` (R103). -/
def loadRx (bytes : List Byte) : List Input := loadRxFrom 0 bytes ++ [wr .rxLen (BitVec.ofNat 32 bytes.length)]

/-- `ENV: TXACK×k` (R104). -/
def envTxAck (k : Nat) : List Input := List.replicate k (.event .txAccept)

/-- `ENV: TXERR` (R104). -/
def envTxErr : Input := .event .txError

/-- `ENV: RX b0 b1 …` (R104). -/
def envRx (bytes : List Byte) : List Input := bytes.map fun b => .event (.rxByte b false)

/-- `ENV: RXERR b` (R104). -/
def envRxErr (b : Byte) : Input := .event (.rxByte b true)

/-- `ENV: TICK×k` (R104). -/
def envTick (k : Nat) : List Input := List.replicate k (.event .tick)

/-- `ENV: PHY_PRESENT=<0|1>` (R104). -/
def envPhyPresent (level : Bool) : Input := .phyPresent level

/-- `ENV: RESET` (R104). -/
def envReset : Input := .event .reset

/-- `WAIT` (R103) as it shows in one interleaving: the reads of STATUS it makes (log 16). -/
def waitPolls (k : Nat) : List Input := List.replicate k (rd .status)

/-- The test that ends `WAIT` (R103): bit 0 of the STATUS word read is 0. -/
def waitEnds (s : State) : Bool := !s.bus.rdata.getLsbD 0

end Sys2Proof.Machine
end

