-- ==== Sys2Proof/Tests/Slice0.lean ====
section
/-! SUPPORT. Tests of the model. The expected results are the spec's: its encoding tables (30_encoding.md) and its vectors
(95_test_vectors.md V1 to V12). The witnesses at the end meet the hypotheses of the statements. -/

namespace Sys2Proof.Tests

open Sys2Proof Sys2Proof.Machine Sys2Proof.Safety

/-! ### Helpers -/

/-- A next state on which `p` holds. -/
def nextAnd (o : Result) (p : State → Bool) : Bool :=
  match o with
  | .next t => p t
  | .fault _ => false
  | .refused _ => false

theorem nextAnd_spec {o : Result} {p : State → Bool} (h : nextAnd o p = true) : ∃ t, o = .next t ∧ p t = true := by
  cases o with
  | next t => exact ⟨t, rfl, h⟩
  | fault r => cases h
  | refused r => cases h

/-- Bytes in RXBUF from index 0. -/
def loaded (bytes : List Byte) : Memory :=
  (bytes.zipIdx.map fun p => (rxAddr p.2, p.1))

/-- IDLE, closed, slave 25, T_RESP_TICKS = 1000 as in V7. -/
def closed : State := { State.reset with slaveAddr := 25#8, startReg := 2#16, timeoutTicks := 1000#32 }

/-- IDLE in an open session with slave 25. -/
def open25 : State := { closed with opened := true, done := true, lastOp := 1#4 }

/-- IDLE with a frame in RXBUF. -/
def holding (bytes : List Byte) : State :=
  { closed with mem := loaded bytes, rxLen := BitVec.ofNat 9 bytes.length }

/-- The request of V7, `19 03 00 02 00 02 66 13`, in TXBUF. -/
def request25 : Memory :=
  [(txAddr 0, 0x19#8), (txAddr 1, 0x03#8), (txAddr 2, 0x00#8), (txAddr 3, 0x02#8), (txAddr 4, 0x00#8), (txAddr 5, 0x02#8),
   (txAddr 6, 0x66#8), (txAddr 7, 0x13#8)]

/-- An exchange that is about to send that request; `op` is 4 (EXCHANGE) or 8 (XFER). -/
def sending (op : BitVec 4) : State :=
  { open25 with phase := .tx, txLen := 8#4, mem := request25, done := false, lastOp := op }

/-- An exchange that has sent it and received nothing. -/
def receiving (op : BitVec 4) : State := { sending op with phase := .rx, txIdx := 8 }

/-- A receive-only exchange (R164), one tick before its timeout. -/
def lastTick : State :=
  { open25 with phase := .rx, done := false, lastOp := 4#4, timer := 999#32 }

/-! ### Decoding: every row of the opcode table, its word written out from the encoding (R94 to R97) -/

theorem test_decode_open : decode (.command 0b00000000000000000000000000000001#32) = .ok .openPort := by decide
theorem test_decode_close : decode (.command 0b00000000000000000000000000000010#32) = .ok .closePort := by decide
theorem test_decode_build : decode (.command 0b00000000000000000000000000000011#32) = .ok .build := by decide
theorem test_decode_exchange : decode (.command 0b00000000000000000000000000000100#32) = .ok .exchange := by decide
theorem test_decode_parse : decode (.command 0b00000000000000000000000000000101#32) = .ok .parse := by decide
theorem test_decode_decode : decode (.command 0b00000000000000000000000000000110#32) = .ok .decode := by decide
theorem test_decode_crc : decode (.command 0b00000000000000000000000000000111#32) = .ok .crc := by decide
theorem test_decode_xfer : decode (.command 0b00000000000000000000000000001000#32) = .ok .xfer := by decide

/-- V2: slave 247, start 0xFFFF, count 0xFFFF is `F7 03 FF FF FF FF 50 C8`. -/
theorem test_decode_request :
    decode (.frame .request [0b11110111#8, 0b00000011#8, 0xFF#8, 0xFF#8, 0xFF#8, 0xFF#8, 0b01010000#8, 0b11001000#8])
      = .ok (.reqReadHolding 247#8 0xFFFF#16 0xFFFF#16 0xC850#16) := by decide

/-- V4 row 1: `19 03 04 44 53 53 33 FA 36`. -/
theorem test_decode_response :
    decode (.frame .response
        [0b00011001#8, 0b00000011#8, 0b00000100#8, 0x44#8, 0x53#8, 0x53#8, 0x33#8, 0b11111010#8, 0b00110110#8])
      = .ok (.respReadHolding 25#8 3#7 4#8 [0x44#8, 0x53#8, 0x53#8, 0x33#8] 0x36FA#16) := by decide

/-- V4 row 19: `19 84 01 02 C7`, an exception frame of function 4. -/
theorem test_decode_exception :
    decode (.frame .response [0b00011001#8, 0b10000100#8, 0b00000001#8, 0b00000010#8, 0b11000111#8])
      = .ok (.respException 25#8 4#7 1#8 0xC702#16) := by decide

/-- V9: reserved opcodes and a non-zero RSV field are refused. -/
theorem test_decode_refuses :
    decode (.command 0#32) = .error (.illegalOpcode 0#4) ∧ decode (.command 9#32) = .error (.illegalOpcode 9#4)
      ∧ decode (.command 0x13#32) = .error .reservedBits ∧ decode (.command 0x80000005#32) = .error .reservedBits := by
  decide

/-- Frames of a wrong length or function (R95 to R97). -/
theorem test_decode_refuses_frames :
    decode (.frame .request [0x19#8, 0x03#8]) = .error .requestLength
      ∧ decode (.frame .request [0x19#8, 0x04#8, 0#8, 0#8, 0#8, 0#8, 0#8, 0#8]) = .error .requestFunction
      ∧ decode (.frame .response [0x19#8, 0x03#8]) = .error .responseTooShort
      ∧ decode (.frame .response [0x19#8, 0x03#8, 0x04#8, 0xA1#8, 0x34#8]) = .error .responseLength
      ∧ decode (.frame .response [0x19#8, 0x83#8, 0x02#8, 0x40#8]) = .error .responseLength := by decide

/-- The table's numbering: the frame's first byte is the most significant (spec/opcode_table.json). -/
theorem test_decode_table_words :
    decodeTableWord 32 8 = some .xfer
      ∧ decodeTableWord 64 0x1903000200026613 = some (.reqReadHolding 25#8 2#16 2#16 0x1366#16)
      ∧ decodeTableWord 24 0x190302 = some (.respReadHolding 25#8 3#7 2#8 [0#8, 0#8] 0#16)
      ∧ decodeTableWord 40 0x19830240F6 = some (.respException 25#8 3#7 2#8 0xF640#16)
      ∧ decodeTableWord 32 9 = none ∧ decodeTableWord 16 1 = none := by decide

/-- A table word placed for the fetch is the instruction the next step runs. -/
theorem test_with_fetch_word :
    nextAnd (step (closed.withFetchWord 32 7)) (fun t => t.done && decide (t.lastOp = 7#4) && decide (t.crcResult = 0xFFFF#16))
      = true := by decide

/-! ### WellFormed: an ill-formed term for each check -/

theorem test_wf_refuses_payload_length :
    Instr.wellFormed (.respReadHolding 25#8 3#7 4#8 [0x44#8, 0x53#8] 0x36FA#16) = false := by decide
theorem test_wf_refuses_slave_0 : Instr.wellFormed (.reqReadHolding 0#8 2#16 2#16 0x1366#16) = false := by decide
theorem test_wf_refuses_slave_248 :
    Instr.wellFormed (.reqReadHolding 248#8 2#16 2#16 (crc16 (requestBody 248#8 2#16 2#16))) = false := by decide +kernel
theorem test_wf_refuses_wrong_crc : Instr.wellFormed (.reqReadHolding 25#8 2#16 2#16 0x1367#16) = false := by
  decide +kernel
theorem test_wf_accepts :
    Instr.wellFormed (.reqReadHolding 25#8 2#16 2#16 0x1366#16) = true
      ∧ Instr.wellFormed (.respReadHolding 25#8 3#7 2#8 [0x12#8, 0x34#8] 0#16) = true
      ∧ Instr.wellFormed (.respException 0#8 3#7 2#8 0#16) = true ∧ Instr.wellFormed .xfer = true := by decide +kernel

/-! ### The CRC (V1) -/

theorem test_crc_vectors :
    crc16 [0x19#8, 0x03#8, 0x04#8, 0x44#8, 0x53#8, 0x53#8, 0x33#8] = 0x36FA#16
      ∧ crc16 [0x19#8, 0x83#8, 0x02#8] = 0xF640#16 := by decide +kernel

/-! ### One step of each instruction -/

/-- V6 row 1. -/
theorem test_open :
    nextAnd (exec .openPort { closed with phyLevel := some true })
      (fun t => decide (statusWord t = 0x00000106#32) && decide (errorWord t = 0#32)) = true := by decide
/-- V6 row 5: the address check comes first. -/
theorem test_open_address_first :
    nextAnd (exec .openPort { closed with slaveAddr := 0#8, phyLevel := some false })
      (fun t => decide (statusWord t = 0x0000010C#32) && decide (errorWord t = 0x30#32)) = true := by decide
/-- V6 row 7. -/
theorem test_close :
    nextAnd (exec .closePort open25) (fun t => decide (statusWord t = 0x00000204#32) && decide (errorWord t = 0#32))
      = true := by decide
/-- V2 row 1. -/
theorem test_build :
    nextAnd (exec .build closed) (fun t => decide (t.mem = request25) && decide (t.txLen = 8#4)) = true := by
  decide +kernel
/-- V2: slave 248. -/
theorem test_build_refuses :
    nextAnd (exec .build { closed with slaveAddr := 248#8 })
      (fun t => decide (errorWord t = 0x30#32) && decide (t.mem = []) && decide (t.txLen = 0#4)) = true := by decide
/-- V7: right after the accept, PHASE = TX and STATUS = 0x00001403. -/
theorem test_exchange :
    nextAnd (exec .exchange { open25 with txLen := 8#4, mem := request25 })
      (fun t => decide (statusWord t = 0x00001403#32)) = true := by decide
/-- V7 row 14. -/
theorem test_exchange_closed :
    nextAnd (exec .exchange closed) (fun t => decide (statusWord t = 0x0000040C#32) && decide (errorWord t = 4#32))
      = true := by decide
/-- V4 row 1. -/
theorem test_parse :
    nextAnd (exec .parse (holding [0x19#8, 0x03#8, 0x04#8, 0x44#8, 0x53#8, 0x53#8, 0x33#8, 0xFA#8, 0x36#8]))
      (fun t => decide (errorWord t = 0#32) && decide (t.regN = 2#8) && decide (regVal t 0 = 0x4453#16)
        && decide (regVal t 1 = 0x5333#16) && decide (t.respHdr = 0x040319#24) && decide (t.crcResult = 0x36FA#16))
      = true := by decide +kernel
/-- V4 row 18: an exception frame, code 2. -/
theorem test_parse_exception :
    nextAnd (exec .parse (holding [0x19#8, 0x83#8, 0x02#8, 0x40#8, 0xF6#8]))
      (fun t => decide (errorWord t = 0x0212#32) && decide (t.regN = 0#8) && decide (t.crcResult = 0xF640#16)) = true := by
  decide +kernel
/-- V5 row 1: 50.0. -/
theorem test_decode_float :
    nextAnd (exec .decode { closed with regN := 2#8, mem := writeRegVals [] 0 [0x4248#16, 0x0000#16] })
      (fun t => decide (t.floatResult = 0x42480000#32) && decide (errorWord t = 0#32)) = true := by decide
/-- V5: REG_N = 1. -/
theorem test_decode_wrong_count :
    nextAnd (exec .decode { closed with regN := 1#8, floatResult := 7#32 })
      (fun t => decide (t.floatResult = 7#32) && decide (errorWord t = 0x20#32)) = true := by decide
/-- The example of R130. -/
theorem test_crc :
    nextAnd (exec .crc (holding [0x01#8, 0x03#8, 0x00#8, 0x00#8, 0x00#8, 0x01#8]))
      (fun t => decide (t.crcResult = 0x0A84#16) && decide (statusWord t = 0x00000704#32)) = true := by decide +kernel
/-- R130: a frame with its own trailer gives 0. -/
theorem test_crc_residue :
    nextAnd (exec .crc (holding [0x19#8, 0x83#8, 0x02#8, 0x40#8, 0xF6#8])) (fun t => decide (t.crcResult = 0#16)) = true := by
  decide +kernel
/-- R230: the request is built and the block sends: BUSY, OPEN, LAST_OP 8, PHASE TX. -/
theorem test_xfer :
    nextAnd (exec .xfer open25) (fun t => decide (statusWord t = 0x00001803#32) && decide (t.mem = request25)) = true := by
  decide +kernel
/-- V8: XFER while closed. -/
theorem test_xfer_closed :
    nextAnd (exec .xfer closed) (fun t => decide (statusWord t = 0x0000080C#32) && decide (t.mem = [])) = true := by decide
/-- R165, R13: the first byte of the request on offer leaves in this step, and seven TxAccepts are still to come. -/
theorem test_request_sent :
    nextAnd (exec (.reqReadHolding 25#8 2#16 2#16 0x1366#16) (sending 4#4))
      (fun t => decide (statusWord t = 0x00001403#32) && decide (t.wireOut = [0x19#8]) && decide (t.txIdx = 1)
        && decide (t.input = [.event .txAccept, .event .txAccept, .event .txAccept, .event .txAccept, .event .txAccept,
            .event .txAccept, .event .txAccept])) = true := by decide
/-- R171: another request on the line while the block sends is dropped. -/
theorem test_request_dropped :
    nextAnd (exec (.reqReadHolding 25#8 3#16 2#16 0x1366#16) (sending 4#4))
      (fun t => decide (statusWord t = 0x00001403#32) && decide (t.wireOut = []) && decide (t.rxLen = 0#9)
        && decide (t.input.length = 7)) = true := by
  decide
/-- R168, R13: the first byte of a response arrives in this step, and the next one is the next step's event. -/
theorem test_response_begins :
    nextAnd (exec (.respReadHolding 25#8 3#7 4#8 [0x44#8, 0x53#8, 0x53#8, 0x33#8] 0x36FA#16) (receiving 8#4))
      (fun t => decide (statusWord t = 0x00002803#32) && decide (rxBuf t 0 = 0x19#8) && decide (t.rxLen = 1#9)
        && decide (t.input.head? = some (.event (.rxByte 0x03#8 false))) && decide (t.input.length = 8)) = true := by decide
/-- V8 row 1: the last byte of that response. -/
theorem test_response_ends_xfer :
    nextAnd (handleEvent (.rxByte 0x36#8 false)
        { receiving 8#4 with
          mem := loaded [0x19#8, 0x03#8, 0x04#8, 0x44#8, 0x53#8, 0x53#8, 0x33#8, 0xFA#8], rxLen := 8#9 })
      (fun t => decide (statusWord t = 0x00000806#32) && decide (t.regN = 2#8) && decide (regVal t 1 = 0x5333#16)
        && decide (t.rxLen = 9#9)) = true := by decide +kernel
/-- R168, R13: the first byte of an exception frame arrives in this step, and four are still to come. -/
theorem test_exception_begins :
    nextAnd (exec (.respException 25#8 3#7 2#8 0xF640#16) (receiving 8#4))
      (fun t => decide (statusWord t = 0x00002803#32) && decide (rxBuf t 0 = 0x19#8)
        && decide (t.input = [.event (.rxByte 0x83#8 false), .event (.rxByte 0x02#8 false),
            .event (.rxByte 0x40#8 false), .event (.rxByte 0xF6#8 false)])) = true := by decide
/-- V8 row 3: the last byte of that frame. -/
theorem test_exception_ends_xfer :
    nextAnd (handleEvent (.rxByte 0xF6#8 false)
        { receiving 8#4 with mem := loaded [0x19#8, 0x83#8, 0x02#8, 0x40#8], rxLen := 4#9 })
      (fun t => decide (statusWord t = 0x0000080E#32) && decide (errorWord t = 0x0212#32)) = true := by decide +kernel

/-! ### Events and the host window -/

/-- V7 rows 5 and 7: the 1000th tick. -/
theorem test_timeout :
    nextAnd (handleEvent .tick lastTick)
      (fun t => decide (statusWord t = 0x0000040E#32) && decide (errorWord t = 2#32) && decide (t.timer = 1000#32))
      = true := by decide
/-- V7 row 10: a byte with an error. -/
theorem test_receive_error :
    nextAnd (handleEvent (.rxByte 0x03#8 true) { receiving 4#4 with rxLen := 1#9 })
      (fun t => decide (statusWord t = 0x0000040E#32) && decide (errorWord t = 3#32) && decide (t.rxLen = 1#9)) = true := by
  decide
/-- V9: 0x80000005 is illegal, and PARSE is not run. -/
theorem test_illegal_word :
    nextAnd (handleEvent (.hostWrite 0x000#12 4#3 0x80000005#32) { closed with regN := 2#8 })
      (fun t => decide (errorWord t = 0x3F#32) && decide (t.lastOp = 5#4) && decide (t.regN = 2#8)) = true := by decide
/-- V10: offsets past REGVAL[126], misaligned, and of size 2. -/
theorem test_host_read_errors :
    (hostRead 0x3FC#12 4#3 closed).bus = ⟨true, 0#32⟩ ∧ (hostRead 0x006#12 4#3 closed).bus = ⟨true, 0#32⟩
      ∧ (hostRead 0x004#12 2#3 closed).bus = ⟨true, 0#32⟩ ∧ (hostRead 0x018#12 4#3 closed).bus = ⟨false, 0x06804B00#32⟩ := by
  decide
/-- V10: WR REG_COUNT, 0x00010002 keeps the low 16 bits; WR RXBUF[0], 0x1FF keeps the low 8. -/
theorem test_host_writes :
    nextAnd (step { closed with input := [wr .regCount 0x00010002#32] }) (fun t => decide (t.regCount = 2#16)) = true
      ∧ nextAnd (handleEvent (.hostWrite 0x400#12 4#3 0x1FF#32) closed) (fun t => decide (rxBuf t 0 = 0xFF#8)) = true := by
  decide

/-! ### Witnesses: states and operands that meet the hypotheses of the statements, each clause at its boundary -/

/-- The block's invariant on a busy state: one tick before the timeout of a receive-only exchange. -/
theorem witness_inv_busy : BlockInv lastTick where
  memWf := by decide
  memMapped := by simp [lastTick, open25, closed, State.reset]
  rxLenMax := by decide
  regNMax := by decide
  txLenBuilt := by decide
  txBuilt := by decide
  txIdxMax := by decide
  txPhase := by decide
  rxPhase := by decide
  sentInOrder := fun _ => ⟨[], rfl⟩
  timeoutPositive := by decide
  timerMax := by decide
  timerRuns := by decide
  sessionAddress := by decide
  busyOpened := by decide
  busyUnreported := by decide
  busyCommand := by decide
  idleReported := by decide
  excOnly := by decide
  errProduced := by decide
  txNothingReceived := by decide
  rxWritten := fun _ i h => absurd h (Nat.not_lt_zero i)
  rxIncomplete := by decide

/-- The invariant does not look at the script. -/
theorem inv_with_input {s : State} (h : BlockInv s) (i : List Input) : BlockInv { s with input := i } := by
  cases h
  constructor <;> assumption

/-- The block's invariant on an idle state that is not the one after reset. -/
theorem witness_inv_idle : BlockInv open25 where
  memWf := by decide
  memMapped := by simp [open25, closed, State.reset]
  rxLenMax := by decide
  regNMax := by decide
  txLenBuilt := by decide
  txBuilt := by decide
  txIdxMax := by decide
  txPhase := by decide
  rxPhase := by decide
  sentInOrder := fun h => absurd rfl h
  timeoutPositive := by decide
  timerMax := by decide
  timerRuns := by decide
  sessionAddress := by decide
  busyOpened := by decide
  busyUnreported := by decide
  busyCommand := by decide
  idleReported := by decide
  excOnly := by decide
  errProduced := by decide
  txNothingReceived := by decide
  rxWritten := by decide
  rxIncomplete := by decide

/-- An XFER before its last TxAccept. -/
def lastSend : State :=
  { sending 8#4 with txIdx := 7, wireOut := [0x19#8, 0x03#8, 0x00#8, 0x02#8, 0x00#8, 0x02#8, 0x66#8] }

/-- An XFER that has received four bytes of an exception frame (V8 row 3), one tick before its timeout. -/
def lastByte : State :=
  { sending 8#4 with
    phase := .rx
    txIdx := 8
    rxLen := 4#9
    timer := 999#32
    mem := request25 ++ loaded [0x19#8, 0x83#8, 0x02#8, 0x40#8]
    wireOut := [0x19#8, 0x03#8, 0x00#8, 0x02#8, 0x00#8, 0x02#8, 0x66#8, 0x13#8] }

/-- The offsets of the first bytes of TXBUF and RXBUF hold storage. -/
theorem mapped_of_list {m : Memory}
    (h : m.all (fun c => (List.range 8).any (fun i => c.1 == txAddr i) || (List.range 8).any (fun i => c.1 == rxAddr i)) = true) :
    ∀ c ∈ m, storageOffset c.1 := by
  intro c hc
  have := List.all_eq_true.1 h c hc
  simp only [Bool.or_eq_true, List.any_eq_true, List.mem_range, beq_iff_eq] at this
  rcases this with ⟨i, hi, e⟩ | ⟨i, hi, e⟩
  · exact .inl ⟨i, hi, e⟩
  · exact .inr (.inr ⟨i, by omega, e⟩)

/-- The block's invariant on a sending XFER. -/
theorem witness_inv_send : BlockInv lastSend where
  memWf := by decide
  memMapped := mapped_of_list (by decide)
  rxLenMax := by decide
  regNMax := by decide
  txLenBuilt := by decide
  txBuilt := by decide
  txIdxMax := by decide
  txPhase := by decide
  rxPhase := by decide
  sentInOrder := fun _ => ⟨[], by decide⟩
  timeoutPositive := by decide
  timerMax := by decide
  timerRuns := by decide
  sessionAddress := by decide
  busyOpened := by decide
  busyUnreported := by decide
  busyCommand := by decide
  idleReported := by decide
  excOnly := by decide
  errProduced := by decide
  txNothingReceived := by decide
  rxWritten := by decide
  rxIncomplete := by decide

/-- The block's invariant on a receiving XFER. -/
theorem witness_inv_receive : BlockInv lastByte where
  memWf := by decide
  memMapped := mapped_of_list (by decide)
  rxLenMax := by decide
  regNMax := by decide
  txLenBuilt := by decide
  txBuilt := by decide
  txIdxMax := by decide
  txPhase := by decide
  rxPhase := by decide
  sentInOrder := fun _ => ⟨[], by decide⟩
  timeoutPositive := by decide
  timerMax := by decide
  timerRuns := by decide
  sessionAddress := by decide
  busyOpened := by decide
  busyUnreported := by decide
  busyCommand := by decide
  idleReported := by decide
  excOnly := by decide
  errProduced := by decide
  txNothingReceived := by decide
  rxWritten := by decide
  rxIncomplete := by decide

/-- StepRunsDecodedCommand. -/
theorem witness_step_command :
    ({ closed with input := [.event (.hostWrite 0x000#12 4#3 8#32)] } : State).input
        = .event (.hostWrite 0x000#12 4#3 8#32) :: []
      ∧ decode (.command 8#32) = .ok .xfer := by decide
/-- StepRunsDecodedFrame. -/
theorem witness_step_frame :
    ({ closed with input := [.frame .response [0x19#8, 0x83#8, 0x02#8, 0x40#8, 0xF6#8]] } : State).input
        = .frame .response [0x19#8, 0x83#8, 0x02#8, 0x40#8, 0xF6#8] :: []
      ∧ decode (.frame .response [0x19#8, 0x83#8, 0x02#8, 0x40#8, 0xF6#8]) = .ok (.respException 25#8 3#7 2#8 0xF640#16) := by
  decide
/-- EventsRunTheirRules: an event to come, a level announced, nothing to come, an OPEN that answers. -/
theorem witness_events :
    ({ closed with input := [.event .tick] } : State).input = .event .tick :: [] ∧ closed.input = []
      ∧ ({ closed with input := [.phyPresent true, .event .tick] } : State).input = .phyPresent true :: [.event .tick]
      ∧ closed.phase = .idle
      ∧ ∃ t, exec .openPort { closed with phyLevel := some true } = .next t ∧ decide (t.opened = true) = true :=
  ⟨rfl, rfl, rfl, rfl, nextAnd_spec (by decide)⟩
/-- DecodeOfEncodeIsInstruction: the shortest response, and others. -/
theorem witness_lengths :
    Instr.lengthsAgree (.respReadHolding 0#8 0#7 0#8 [] 0#16) = true
      ∧ Instr.lengthsAgree (.respReadHolding 255#8 127#7 255#8 (List.replicate 255 0xFF#8) 0xFFFF#16) = true
      ∧ Instr.lengthsAgree (.respException 255#8 127#7 255#8 0xFFFF#16) = true
      ∧ Instr.lengthsAgree (.reqReadHolding 0#8 0#16 0#16 0#16) = true ∧ Instr.lengthsAgree .openPort = true := by
  decide +kernel
/-- EncodeOfDecodeIsCode. -/
theorem witness_decodes :
    decode (.command 1#32) = .ok .openPort
      ∧ decode (.frame .response [0#8, 0#8, 0#8, 0#8, 0#8]) = .ok (.respReadHolding 0#8 0#7 0#8 [] 0#16) := by decide
/-- IllegalWordsEndAtOnce: the words next to the legal ones, and one with RSV set. -/
theorem witness_illegal :
    closed.phase = .idle ∧ [0#32, 9#32, 0x13#32, 0xFFFFFFFF#32].all (fun w => !decide (1 ≤ w.toNat ∧ w.toNat ≤ 8)) = true := by
  decide
/-- CommandWhileBusyIsRejected, CloseOutcome (second clause), TickCountsAndTimesOut. -/
theorem witness_busy : (sending 4#4).phase ≠ .idle ∧ (receiving 8#4).phase ≠ .idle := by decide
/-- CrcResidueAndSingleBit: the last bit of the trailer, and the first bit of the bytes. -/
theorem witness_flip :
    2 < ([0x19#8] : List Byte).length + 2 ∧ 7 < 8 ∧ 0 < ([0x19#8] : List Byte).length + 2 ∧ 0 < 8 := by decide
/-- OpenOutcome: open; an address below and above the range; an absent and a present PHY at both ends of the range. -/
theorem witness_open :
    (open25.phase = .idle ∧ open25.opened = true)
      ∧ (closed.phase = .idle ∧ closed.opened = false)
      ∧ [0#8, 248#8, 255#8].all (fun a => !decide (1 ≤ a.toNat ∧ a.toNat ≤ 247)) = true
      ∧ [1#8, 247#8].all (fun a => decide (1 ≤ a.toNat ∧ a.toNat ≤ 247)) = true
      ∧ phyPresentNow { closed with slaveAddr := 247#8, phyLevel := some false } = false
      ∧ phyPresentNow { closed with slaveAddr := 1#8, phyLevel := some true } = true := by decide
/-- CloseOutcome, BuildWritesRequest, DecodeOutcome, AtomicCommandsFinishInTheirStep, CrcOutcome at RX_LEN 260. -/
theorem witness_idle :
    closed.phase = .idle ∧ ({ closed with rxLen := 260#9 } : State).rxLen.toNat ≤ 260 ∧ atomicCommand .crc = true
      ∧ (1#8 : Byte) ≠ 2#8 ∧ ({ closed with regN := 2#8 } : State).regN = 2#8 := by decide
/-- ExchangeAccept: closed; open with nothing built; open with a request. -/
theorem witness_exchange :
    closed.phase = .idle ∧ closed.opened = false ∧ open25.phase = .idle ∧ open25.opened = true ∧ open25.txLen = 0#4
      ∧ ({ open25 with txLen := 8#4, mem := request25 } : State).txLen ≠ 0#4 := by decide
/-- XferAccept: closed; open with an address out of range; open with one in range. -/
theorem witness_xfer :
    closed.opened = false ∧ ({ open25 with slaveAddr := 248#8 } : State).opened = true
      ∧ ¬ (1 ≤ (248#8).toNat ∧ (248#8).toNat ≤ 247) ∧ open25.opened = true
      ∧ (1 ≤ open25.slaveAddr.toNat ∧ open25.slaveAddr.toNat ≤ 247) := by decide
/-- The CRC check of ParseOutcome on a frame. -/
def crcAgrees (s : State) : Prop :=
  crc16 ((List.range (s.rxLen.toNat - 2)).map (rxBuf s)) = rxBuf s (s.rxLen.toNat - 1) ++ rxBuf s (s.rxLen.toNat - 2)
/-- ParseOutcome, checks (1) and (2): 4 bytes; 5 bytes with a wrong trailer (V4 rows 12 and 8). -/
theorem witness_parse_1 :
    (holding [0x19#8, 0x03#8, 0x04#8, 0x42#8]).rxLen.toNat < 5
      ∧ 5 ≤ (holding [0x19#8, 0x03#8, 0x00#8, 0xA0#8, 0xF6#8]).rxLen.toNat
      ∧ ¬ crcAgrees (holding [0x19#8, 0x03#8, 0x00#8, 0xA0#8, 0xF6#8]) := by
  unfold crcAgrees; decide +kernel
/-- ParseOutcome, check (3): V4 row 17. -/
theorem witness_parse_3 :
    let s := holding [0x1A#8, 0x83#8, 0x02#8, 0xB0#8, 0xF6#8]
    s.phase = .idle ∧ 5 ≤ s.rxLen.toNat ∧ s.rxLen.toNat ≤ 260 ∧ crcAgrees s ∧ rxBuf s 0 ≠ s.slaveAddr := by
  unfold crcAgrees; decide +kernel
/-- ParseOutcome, check (4): V4 row 18. -/
theorem witness_parse_4 :
    let s := holding [0x19#8, 0x83#8, 0x02#8, 0x40#8, 0xF6#8]
    5 ≤ s.rxLen.toNat ∧ crcAgrees s ∧ rxBuf s 0 = s.slaveAddr ∧ (rxBuf s 1).getLsbD 7 = true := by
  unfold crcAgrees; decide +kernel
/-- ParseOutcome, check (5): V4 row 21, REG_COUNT 2. -/
theorem witness_parse_5 :
    let s := holding [0x19#8, 0x03#8, 0x00#8, 0xA0#8, 0xF7#8]
    5 ≤ s.rxLen.toNat ∧ crcAgrees s ∧ rxBuf s 0 = s.slaveAddr ∧ (rxBuf s 1).getLsbD 7 = false
      ∧ (rxBuf s 2).toNat ≠ 2 * s.regCount.toNat := by
  unfold crcAgrees; decide +kernel
/-- ParseOutcome, check (6): V4 row 24. -/
theorem witness_parse_6 :
    let s := holding [0x19#8, 0x03#8, 0x04#8, 0xA1#8, 0x34#8]
    5 ≤ s.rxLen.toNat ∧ crcAgrees s ∧ rxBuf s 0 = s.slaveAddr ∧ (rxBuf s 1).getLsbD 7 = false
      ∧ (rxBuf s 2).toNat = 2 * s.regCount.toNat ∧ s.rxLen.toNat < 5 + 2 * s.regCount.toNat := by
  unfold crcAgrees; decide +kernel
/-- ParseOutcome, success: V4 row 8, n = 0 and the shortest frame. -/
theorem witness_parse_ok :
    let s := { holding [0x19#8, 0x03#8, 0x00#8, 0xA0#8, 0xF7#8] with regCount := 0#16 }
    5 ≤ s.rxLen.toNat ∧ crcAgrees s ∧ rxBuf s 0 = s.slaveAddr ∧ (rxBuf s 1).getLsbD 7 = false
      ∧ (rxBuf s 2).toNat = 2 * s.regCount.toNat ∧ 5 + 2 * s.regCount.toNat ≤ s.rxLen.toNat := by
  unfold crcAgrees; decide +kernel
/-- ParseOutcome for PARSE at the end of an XFER: a busy state with a whole frame and nothing reported. The states of the
clauses above meet its hypotheses too. -/
theorem witness_parse_xfer :
    let s := storeRxByte 0xF6#8 lastByte
    s.phase ≠ .idle ∧ s.lastOp = 8#4 ∧ s.rxLen.toNat ≤ 260 ∧ s.errCode = 0#8 ∧ s.excCode = 0#8 ∧ 5 ≤ s.rxLen.toNat
      ∧ crcAgrees s ∧ rxBuf s 0 = s.slaveAddr ∧ (rxBuf s 1).getLsbD 7 = true
      ∧ (holding [0x19#8]).errCode = 0#8 ∧ (holding [0x19#8]).excCode = 0#8 := by
  unfold crcAgrees; decide +kernel
/-- CountsAbove127NeverParse: REG_COUNT 128 on V4 row 21's frame. -/
theorem witness_count_128 :
    let s := { holding [0x19#8, 0x03#8, 0x00#8, 0xA0#8, 0xF7#8] with regCount := 128#16 }
    s.phase = .idle ∧ 128 ≤ s.regCount.toNat ∧ ∃ t, exec .parse s = .next t ∧ decide (t.errCode = 0x13#8) = true :=
  ⟨rfl, by decide, nextAnd_spec (by decide +kernel)⟩
/-- ParseRoundTrip: two registers (V4 row 1). -/
theorem witness_round_trip :
    let s := holding [0x19#8, 0x03#8, 0x04#8, 0x44#8, 0x53#8, 0x53#8, 0x33#8, 0xFA#8, 0x36#8]
    let values : List Half := [0x4453#16, 0x5333#16]
    s.phase = .idle ∧ (1 ≤ s.slaveAddr.toNat ∧ s.slaveAddr.toNat ≤ 247) ∧ values.length ≤ 127
      ∧ s.regCount.toNat = values.length ∧ s.rxLen.toNat = 5 + 2 * values.length
      ∧ (List.range s.rxLen.toNat).map (rxBuf s) = withTrailer (responseBody s.slaveAddr values) := by decide +kernel
/-- SingleBitFlipIsCrcMismatch: the last bit of the shortest frame. -/
theorem witness_single_bit :
    let s := holding [0x19#8, 0x03#8, 0x00#8, 0xA0#8, 0xF7#8]
    s.phase = .idle ∧ 5 ≤ s.rxLen.toNat ∧ s.rxLen.toNat ≤ 260 ∧ crcAgrees s ∧ 4 < s.rxLen.toNat ∧ 7 < 8 := by
  unfold crcAgrees; decide +kernel
/-- RequestOnOfferIsSent; FrameIsItsBytesInOrder, the request on offer. -/
theorem witness_offer :
    let s := sending 4#4
    s.phase = .tx ∧ s.txIdx = 0 ∧ s.txLen = 8#4
      ∧ (∀ k : Fin 8, s.mem.read (txAddr k.val) = (requestFrame 25#8 2#16 2#16 0x1366#16)[k.val]?)
      ∧ decode (.frame .request (requestFrame 25#8 2#16 2#16 0x1366#16)) = .ok (.reqReadHolding 25#8 2#16 2#16 0x1366#16)
      ∧ offersFrame s (requestFrame 25#8 2#16 2#16 0x1366#16) = true := by decide
/-- FramesOutsideReceptionAreDropped, FrameIsItsBytesInOrder: a request that is not the one on offer. -/
theorem witness_not_on_offer :
    closed.phase ≠ .rx ∧ (sending 4#4).phase ≠ .rx
      ∧ offersFrame (sending 4#4) (requestFrame 25#8 3#16 2#16 0x1366#16) = false
      ∧ offersFrame closed (requestFrame 25#8 2#16 2#16 0x1366#16) = false := by decide
/-- ResponseEndsExchange: a normal and an exception frame. -/
theorem witness_response_exchange :
    encode (.respReadHolding 25#8 3#7 0#8 [] 0xF7A0#16) = .frame .response [0x19#8, 0x03#8, 0x00#8, 0xA0#8, 0xF7#8]
      ∧ encode (.respException 25#8 3#7 2#8 0xF640#16) = .frame .response [0x19#8, 0x83#8, 0x02#8, 0x40#8, 0xF6#8]
      ∧ Instr.lengthsAgree (.respReadHolding 25#8 3#7 0#8 [] 0xF7A0#16) = true
      ∧ (receiving 4#4).phase = .rx ∧ (receiving 4#4).rxLen = 0#9 ∧ (receiving 4#4).lastOp = 4#4
      ∧ (receiving 4#4).errCode = 0#8 := by decide
/-- SoundResponseEndsXfer, ExceptionEndsXfer: an XFER that asks for two registers. -/
theorem witness_response_xfer :
    let s := receiving 8#4
    s.phase = .rx ∧ s.rxLen = 0#9 ∧ s.lastOp = 8#4 ∧ s.errCode = 0#8 ∧ s.regCount.toNat = ([0#16, 0#16] : List Half).length
      ∧ ([0#16, 0#16] : List Half).length ≤ 127 := by decide
/-- TxAcceptTakesByteOnOffer at the first and at the last byte; TxErrorAndIdleTxSignals in and out of the TX phase. -/
theorem witness_tx :
    let s := { sending 4#4 with txIdx := 7 }
    s.phase = .tx ∧ s.txIdx < s.txLen.toNat ∧ s.mem.read (txAddr s.txIdx) = some 0x13#8
      ∧ (sending 4#4).mem.read (txAddr 0) = some 0x19#8 ∧ (receiving 4#4).phase ≠ .tx := by decide
/-- RxByteIsAssembled: not complete after 4 bytes; complete at 5 for an XFER and for an EXCHANGE; at RX_LEN 259. -/
theorem witness_rx :
    let s := { receiving 8#4 with mem := loaded [0x19#8, 0x83#8, 0x02#8, 0x40#8], rxLen := 4#9 }
    let t := { s with mem := s.mem.write (rxAddr 4) 0xF6#8, rxLen := 5#9 }
    s.phase = .rx ∧ s.rxLen.toNat < 260 ∧ (rxBuf t 1).getLsbD 7 = true ∧ s.rxLen.toNat + 1 = 5 ∧ s.lastOp = 8#4
      ∧ (receiving 4#4).lastOp ≠ 8#4
      ∧ frameComplete { s with rxLen := 4#9 } 4 = false
      ∧ ({ s with rxLen := 259#9 } : State).rxLen.toNat < 260 := by decide
/-- RxErrorAndStrayBytes: in and out of the RX phase. -/
theorem witness_rx_error : (receiving 4#4).phase = .rx ∧ closed.phase ≠ .rx ∧ (sending 8#4).phase ≠ .rx := by decide
/-- TickCountsAndTimesOut: the tick before the last, the last, and IDLE. -/
theorem witness_tick :
    (lastTick.phase ≠ .idle ∧ lastTick.timer + 1#32 = lastTick.timeoutTicks)
      ∧ ({ lastTick with timer := 998#32 } : State).timer + 1#32 ≠ lastTick.timeoutTicks ∧ closed.phase = .idle := by decide
/-- SessionSurvivesTimeout. -/
theorem witness_timeout :
    BlockInv lastTick ∧ lastTick.phase ≠ .idle ∧ lastTick.timer + 1#32 = lastTick.timeoutTicks :=
  ⟨witness_inv_busy, by decide, by decide⟩
/-- The condition of UnadmittedAccessIsAnError on an access (R62, R63). -/
def admissible (offset : BitVec 12) (size : BitVec 3) : Bool :=
  decide (size = 4#3 ∧ offset.toNat % 4 = 0 ∧
    (offset.toNat ≤ 0x038 ∨ (0x100 ≤ offset.toNat ∧ offset.toNat ≤ 0x11C)
      ∨ (0x200 ≤ offset.toNat ∧ offset.toNat ≤ 0x3F8) ∨ (0x400 ≤ offset.toNat ∧ offset.toNat ≤ 0x80C)))
/-- UnadmittedAccessIsAnError: the last mapped and the first unmapped offset of each range, a wrong size, a misaligned
offset. -/
theorem witness_admission :
    [0x000#12, 0x038#12, 0x100#12, 0x11C#12, 0x200#12, 0x3F8#12, 0x400#12, 0x80C#12].all
        (fun o => admissible o 4#3 && (admitted o 4#3).isSome) = true
      ∧ [0x03C#12, 0x0FC#12, 0x120#12, 0x1FC#12, 0x3FC#12, 0x810#12, 0xFFC#12, 0x006#12].all
        (fun o => !admissible o 4#3 && (admitted o 4#3).isNone) = true
      ∧ admissible 0x004#12 2#3 = false := by decide
/-- HostReadAnswers: written entries at the ends of the buffers. -/
theorem witness_read :
    (sending 4#4).mem.read (txAddr 7) = some 0x13#8 ∧ Memory.read [(rxAddr 259, 5#8)] (rxAddr 259) = some 5#8
      ∧ regVal { closed with mem := writeRegVals [] 126 [0x1234#16] } 126 = 0x1234#16 := by decide
/-- UnwrittenEntryReadsAsDraw. -/
theorem witness_unwritten :
    closed.mem.read (txAddr 7) = none ∧ closed.mem.read (regValAddr 126) = none
      ∧ closed.mem.read (regValAddr 126 + 1) = none ∧ closed.mem.read (rxAddr 259) = none := by decide
/-- LockedWritesAreIgnored: BUSY, and OPEN while IDLE; HostWriteStores: IDLE and closed, the last values taken and the
first ignored. -/
theorem witness_locks :
    (sending 4#4).phase ≠ .idle ∧ (open25.phase = .idle ∧ open25.opened = true) ∧ closed.phase = .idle
      ∧ closed.opened = false ∧ (260#32).toNat ≤ 260 ∧ 260 < (261#32).toNat ∧ (127#32).toNat ≤ 127
      ∧ 127 < (128#32).toNat := by decide
/-- ReadOnlyWritesAreIgnored. -/
theorem witness_read_only : (Reg.txBuf 7 = .error ∨ ∃ i, Reg.txBuf 7 = .txBuf i) ∧ (Reg.error = .error) :=
  ⟨.inr ⟨7, rfl⟩, rfl⟩
/-- ResetSetsEveryRegister, ResetAbandonsExchange: a Reset in the middle of an exchange, and a byte after it. -/
theorem witness_reset :
    let s := { receiving 8#4 with timeoutTicks := Config.tRespTicks }
    let r : State := { s with input := [.event .reset, .event (.rxByte 0x19#8 false), .event .tick] }
    s.timeoutTicks = Config.tRespTicks ∧ (∃ t, handleEvent .reset s = .next t ∧ decide (t.phase = .idle) = true)
      ∧ r.input = .event .reset :: [0x19#8].map (fun b => .event (.rxByte b false)) ++ [.event .tick] :=
  ⟨rfl, nextAnd_spec (by decide), rfl⟩
/-- SameClockOrder: a Reset with a tick; the last TxAccept; and the byte that completes a frame in the clock of the last
tick, of an EXCHANGE and of an XFER. -/
theorem witness_clock :
    let s := { lastTick with mem := loaded [0x19#8, 0x83#8, 0x02#8, 0x40#8], rxLen := 4#9 }
    (⟨true, none, none, true, none⟩ : Clock).rst = true ∧ s.phase = .rx ∧ s.lastOp = 4#4 ∧ s.errCode = 0#8
      ∧ s.rxLen.toNat < 260 ∧ s.timer + 1#32 = s.timeoutTicks
      ∧ frameComplete (storeRxByte 0xF6#8 { s with draws := s.draws + 1 }) (s.rxLen.toNat + 1) = true
      ∧ lastByte.phase = .rx ∧ lastByte.lastOp = 8#4 ∧ lastByte.errCode = 0#8 ∧ lastByte.rxLen.toNat < 260
      ∧ lastByte.timer + 1#32 = lastByte.timeoutTicks
      ∧ frameComplete (storeRxByte 0xF6#8 { lastByte with draws := 1 }) (lastByte.rxLen.toNat + 1) = true := by decide
/-- SameClockOrder: a Reset in its clock, a full clock, and the last TxAccept with a byte in its clock. -/
theorem witness_clock_tx :
    let reset : Clock := ⟨true, none, none, true, none⟩
    let full : Clock := ⟨false, some .accept, some (0x19#8, true), true, some (.read 0x004#12 4#3)⟩
    let last : Clock := ⟨false, some .accept, some (0x19#8, false), false, none⟩
    let s : State := { lastSend with input := [.clock last] }
    ({ closed with input := [.clock reset] } : State).input = .clock reset :: []
      ∧ ({ closed with input := [.clock full] } : State).input = .clock full :: []
      ∧ s.input = .clock last :: [] ∧ BlockInv s ∧ s.phase = .tx ∧ s.txIdx + 1 = s.txLen.toNat :=
  ⟨rfl, rfl, rfl, inv_with_input witness_inv_send _, by decide, by decide⟩
/-- EveryStepKeepsInvariant, NoStepStops, TimeoutWindowIsConstant. -/
theorem witness_step : BlockInv open25 ∧ BlockInv lastTick ∧ ∃ t, step lastTick = .next t ∧ decide (t = lastTick) = true :=
  ⟨witness_inv_idle, witness_inv_busy, nextAnd_spec (by decide)⟩
/-- EveryExchangeEnds: one tick left, one tick to come. -/
theorem witness_ends :
    let s := { lastTick with input := [.event .tick] }
    BlockInv s ∧ s.input = [Event.tick].map Input.event ++ []
      ∧ s.timeoutTicks.toNat - s.timer.toNat ≤ [Event.tick].count .tick :=
  ⟨inv_with_input witness_inv_busy _, rfl, by decide⟩
/-- OnlyExchangesLeaveIdle. -/
theorem witness_leaves_idle :
    open25.phase = .idle ∧ ∃ t, handleEvent (.hostWrite 0x000#12 4#3 0x00000004#32) open25 = .next t
      ∧ decide (t.phase ≠ .idle) = true :=
  ⟨rfl, nextAnd_spec (by decide)⟩
/-- SessionFlagChanges: an OPEN, a CLOSE, a Reset. -/
theorem witness_session :
    (∃ t, handleEvent (.hostWrite 0x000#12 4#3 1#32) { closed with phyLevel := some true } = .next t
        ∧ decide (t.opened ≠ closed.opened ∧ t.err = false) = true)
      ∧ (∃ t, handleEvent (.hostWrite 0x000#12 4#3 2#32) open25 = .next t ∧ decide (t.opened ≠ open25.opened) = true)
      ∧ ∃ t, handleEvent .reset open25 = .next t ∧ decide (t.opened ≠ open25.opened) = true :=
  ⟨nextAnd_spec (by decide), nextAnd_spec (by decide), nextAnd_spec (by decide)⟩
/-- RejectFlagChanges: a CMD write while BUSY, and a STATUS write with bit 4. -/
theorem witness_reject :
    (sending 4#4).phase ≠ .idle
      ∧ (∃ t, handleEvent (.hostWrite 0x000#12 4#3 1#32) (sending 4#4) = .next t
        ∧ decide (t.cmdRej ≠ (sending 4#4).cmdRej) = true)
      ∧ (0x10#32 : Word).getLsbD 4 = true
      ∧ ∃ t, handleEvent (.hostWrite 0x004#12 4#3 0x10#32) { closed with cmdRej := true } = .next t
        ∧ decide (t.cmdRej ≠ true) = true :=
  ⟨by decide, nextAnd_spec (by decide), by decide, nextAnd_spec (by decide)⟩
/-- AddressFixedInSession: a write to SLAVE_ADDR while open. -/
theorem witness_address :
    open25.opened = true ∧ ∃ t, handleEvent (.hostWrite 0x00C#12 4#3 26#32) open25 = .next t
      ∧ decide (t.opened = true) = true :=
  ⟨rfl, nextAnd_spec (by decide)⟩
/-- RequestBufferWriters: a BUILD. -/
theorem witness_build_writes :
    ∃ t, handleEvent (.hostWrite 0x000#12 4#3 3#32) closed = .next t ∧ decide (t.txLen ≠ closed.txLen) = true :=
  nextAnd_spec (by decide +kernel)
/-- FailureGivesNoResult for an instruction: a DECODE with REG_N = 0; a PARSE of nothing; an XFER without a session. -/
theorem witness_failure :
    BlockInv open25 ∧ (∃ t, exec .decode open25 = .next t ∧ decide (t.errCode ≠ 0#8) = true)
      ∧ open25.phase = .idle ∧ (∃ t, exec .parse open25 = .next t ∧ decide (t.errCode ≠ 0#8) = true)
      ∧ closed.phase = .idle ∧ ∃ t, exec .xfer closed = .next t ∧ decide (t.errCode ≠ 0#8) = true :=
  ⟨witness_inv_idle, nextAnd_spec (by decide), rfl, nextAnd_spec (by decide), rfl, nextAnd_spec (by decide)⟩
/-- FailureGivesNoResult for an event of an XFER: a timeout, a byte with an error, and a completing byte that fails the CRC
check. None is a host write. -/
theorem witness_failure_event :
    BlockInv lastByte ∧ lastByte.phase ≠ .idle ∧ lastByte.lastOp = 8#4
      ∧ (∃ t, handleEvent .tick lastByte = .next t ∧ decide (t.errCode = 0x02#8) = true)
      ∧ (∃ t, handleEvent (.rxByte 0xF6#8 true) lastByte = .next t ∧ decide (t.errCode = 0x03#8) = true)
      ∧ ∃ t, handleEvent (.rxByte 0xF7#8 false) lastByte = .next t ∧ decide (t.errCode = 0x10#8) = true :=
  ⟨witness_inv_receive, by decide, by decide, nextAnd_spec (by decide), nextAnd_spec (by decide),
    nextAnd_spec (by decide +kernel)⟩

end Sys2Proof.Tests
end

section
/-! The host window, register by register (10_state.md R23, R25, R56; 20_memory.md R62 to R67). -/

namespace Sys2Proof.Machine

/-! ### Admission -/

/-- An aligned access of size 4 is decided by its word index alone. -/
theorem admitted_word {k : Nat} (h : k < 0x400) : admitted (BitVec.ofNat 12 (4 * k)) 4#3 = regOfWord k := by
  have hk : (BitVec.ofNat 12 (4 * k)).toNat = 4 * k := by
    rw [BitVec.toNat_ofNat]; omega
  have hm : 4 * k % 4 = 0 := by omega
  have hd : 4 * k / 4 = k := by omega
  simp only [admitted, hk, hm, hd, and_self, if_true]

/-- The word index of a register in the window (R23). -/
def regWord : Reg → Nat
  | .cmd => 0
  | .status => 1
  | .error => 2
  | .slaveAddr => 3
  | .startReg => 4
  | .regCount => 5
  | .lineCfg => 6
  | .timeoutTicks => 7
  | .timer => 8
  | .txLen => 9
  | .rxLen => 10
  | .crcResult => 11
  | .respHdr => 12
  | .regN => 13
  | .floatResult => 14
  | .txBuf i => 0x40 + i.val
  | .regVal i => 0x80 + i.val
  | .rxBuf i => 0x100 + i.val

theorem regOffset_eq (r : Reg) : regOffset r = 4 * regWord r := by
  cases r <;> simp only [regOffset, regWord, txAddr, regValAddr, rxAddr] <;> omega

theorem regWord_lt (r : Reg) : regWord r < 0x400 := by
  cases r <;> simp only [regWord] <;> omega

theorem regOfWord_regWord (r : Reg) : regOfWord (regWord r) = some r := by
  cases r with
  | txBuf i =>
    have h : ¬ 0x40 + i.val < 0x40 ∧ 0x40 + i.val < 0x80 := by omega
    simp [regOfWord, regWord, h]
  | regVal i =>
    have h : ¬ 0x80 + i.val < 0x40 ∧ ¬ 0x80 + i.val < 0x80 ∧ 0x80 + i.val < 0x100 := by omega
    simp [regOfWord, regWord, h]
  | rxBuf i =>
    have h : ¬ 0x100 + i.val < 0x40 ∧ ¬ 0x100 + i.val < 0x80 ∧ ¬ 0x100 + i.val < 0x100 := by omega
    simp [regOfWord, regWord, h]
  | _ => rfl

/-- Every register is found at its own offset (R62, R63). -/
@[simp] theorem admitted_regOffset (r : Reg) : admitted (BitVec.ofNat 12 (regOffset r)) 4#3 = some r := by
  rw [regOffset_eq, admitted_word (regWord_lt r), regOfWord_regWord]

/-! ### Reads and writes -/

/-- A read of a register answers with it and changes nothing else (R62, R67). -/
theorem hostRead_regOffset (s : State) (r : Reg) :
    hostRead (BitVec.ofNat 12 (regOffset r)) 4#3 s = { s with bus := ⟨false, readReg s r⟩ } := by
  rw [hostRead, admitted_regOffset]
  rfl

/-- An admitted write to a register other than CMD goes to that register, with no error response. -/
theorem hostWrite_of_admitted {offset : BitVec 12} {size : BitVec 3} {r : Reg} (h : admitted offset size = some r)
    (hr : r ≠ .cmd) (v : Word) (s : State) :
    hostWrite offset size v s = .next (writeReg (answerWrite false s) v r) := by
  unfold hostWrite
  rw [h]
  cases r with
  | cmd => exact absurd rfl hr
  | _ => rfl

/-- A write to CMD runs the word written (R90). -/
theorem hostWrite_cmd (v : Word) (s : State) : hostWrite 0x000#12 4#3 v s = runCommand v (answerWrite false s) := by
  unfold hostWrite
  rw [show admitted 0x000#12 4#3 = some .cmd from admitted_regOffset .cmd]

/-- Everything a host write can do (R62, R90): the error response, a command, or a write to one register. -/
theorem hostWrite_cases {offset : BitVec 12} {size : BitVec 3} {v : Word} {s t : State}
    (h : hostWrite offset size v s = .next t) :
    t = answerWrite true s
      ∨ (offset = 0x000#12 ∧ size = 4#3 ∧ runCommand v (answerWrite false s) = .next t)
      ∨ ∃ r, r ≠ .cmd ∧ admitted offset size = some r ∧ t = writeReg (answerWrite false s) v r := by
  cases ha : admitted offset size with
  | none =>
    rw [hostWrite, ha] at h
    cases h
    exact .inl rfl
  | some r =>
    by_cases hr : r = .cmd
    · subst hr
      obtain ⟨rfl, rfl⟩ := admitted_single (.inl rfl) ha
      exact .inr (.inl ⟨rfl, rfl, by rw [← h]; exact (hostWrite_cmd v s).symm⟩)
    · rw [hostWrite_of_admitted ha hr] at h
      cases h
      exact .inr (.inr ⟨r, hr, rfl, rfl⟩)

/-- A write that its register's lock or its read-only nature refuses leaves the register file as it was. -/
theorem writeReg_ignored {s : State} {r : Reg} (h : writeLocked s r = true ∨ hostReadOnly r = true) (v : Word) :
    writeReg s v r = s := by
  unfold writeReg
  split
  · rfl
  · rename_i hl
    have hro : hostReadOnly r = true := h.resolve_left hl
    cases r with
    | status | slaveAddr | startReg | regCount | rxLen | regN => cases hro
    | regVal i | rxBuf i => cases hro
    | _ => rfl

/-- Such a write is answered without an error and changes nothing else (R56, R67). -/
theorem hostWrite_ignored {s : State} {r : Reg} (hr : r ≠ .cmd)
    (h : writeLocked s r = true ∨ hostReadOnly r = true) (v : Word) :
    hostWrite (BitVec.ofNat 12 (regOffset r)) 4#3 v s = .next { s with bus := ⟨false, s.bus.rdata⟩ } := by
  rw [hostWrite_of_admitted (admitted_regOffset r) hr,
    writeReg_ignored (show writeLocked (answerWrite false s) r = true ∨ _ from h)]
  rfl

/-- A STATUS write clears CMD_REJ on bit 4 and does nothing else, in any phase (R25). -/
theorem writeReg_status (s : State) (v : Word) :
    writeReg s v .status = { s with cmdRej := s.cmdRej && !v.getLsbD 4 } := by
  simp only [writeReg, writeLocked, storeReg]
  cases v.getLsbD 4 <;> simp

/-- No write but one to STATUS touches CMD_REJ (R30). -/
theorem writeReg_cmdRej {r : Reg} (hr : r ≠ .status) (s : State) (v : Word) :
    (writeReg s v r).cmdRej = s.cmdRej := by
  unfold writeReg
  split
  · rfl
  · cases r with
    | status => exact absurd rfl hr
    | rxLen => simp only [storeReg]; split <;> rfl
    | regN => simp only [storeReg]; split <;> rfl
    | _ => rfl

/-! ### The STATUS word -/

theorem getLsbD_append_flagBit_zero {n : Nat} (x : BitVec n) (b : Bool) : (x ++ flagBit b).getLsbD 0 = b := by
  rw [BitVec.getLsbD_append]
  cases b <;> rfl

theorem getLsbD_append_flagBit_succ {n : Nat} (x : BitVec n) (b : Bool) (i : Nat) :
    (x ++ flagBit b).getLsbD (i + 1) = x.getLsbD i := by
  rw [BitVec.getLsbD_append]
  rfl

/-- The five flags of STATUS, each one place above the flag before it (R25). -/
theorem statusWord_flags (s : State) :
    (statusWord s).getLsbD 0 = busy s ∧ (statusWord s).getLsbD 1 = s.opened ∧ (statusWord s).getLsbD 2 = s.done
      ∧ (statusWord s).getLsbD 3 = s.err ∧ (statusWord s).getLsbD 4 = s.cmdRej := by
  unfold statusWord
  refine ⟨?_, ?_, ?_, ?_, ?_⟩
  · rw [getLsbD_append_flagBit_zero]
  · rw [getLsbD_append_flagBit_succ, getLsbD_append_flagBit_zero]
  · iterate 2 rw [getLsbD_append_flagBit_succ]
    rw [getLsbD_append_flagBit_zero]
  · iterate 3 rw [getLsbD_append_flagBit_succ]
    rw [getLsbD_append_flagBit_zero]
  · iterate 4 rw [getLsbD_append_flagBit_succ]
    rw [getLsbD_append_flagBit_zero]

/-- The fields of STATUS above the flags (R25): each is what is left on top once the fields below it are dropped. -/
theorem statusWord_fields (s : State) :
    (statusWord s).extractLsb' 5 3 = 0#3 ∧ (statusWord s).extractLsb' 8 4 = s.lastOp
      ∧ (statusWord s).extractLsb' 12 2 = phaseBits s.phase ∧ (statusWord s).extractLsb' 14 18 = 0#18 := by
  unfold statusWord
  refine ⟨?_, ?_, ?_, ?_⟩
  · iterate 5 rw [BitVec.extractLsb'_append_eq_of_le (by decide)]
    exact BitVec.extractLsb'_append_eq_right
  · iterate 6 rw [BitVec.extractLsb'_append_eq_of_le (by decide)]
    exact BitVec.extractLsb'_append_eq_right
  · iterate 7 rw [BitVec.extractLsb'_append_eq_of_le (by decide)]
    exact BitVec.extractLsb'_append_eq_right
  · iterate 7 rw [BitVec.extractLsb'_append_eq_of_le (by decide)]
    exact BitVec.extractLsb'_append_eq_left

/-! ### The statements on single registers -/

/-- The lock of R56 holds in the cases the statement names. -/
theorem writeLocked_of_busy {s : State} {r : Reg} (hp : s.phase ≠ .idle)
    (hr : r = .slaveAddr ∨ r = .startReg ∨ r = .regCount ∨ r = .rxLen ∨ r = .regN ∨ (∃ i, r = .rxBuf i)
      ∨ ∃ i, r = .regVal i) : writeLocked s r = true := by
  have hb : busy s = true := busy_eq_true.2 hp
  rcases hr with rfl | rfl | rfl | rfl | rfl | ⟨i, rfl⟩ | ⟨i, rfl⟩ <;> simp [writeLocked, hb]

/-- Settles O40: a locked register is never CMD, and a locked write is ignored. -/
theorem lockedWritesAreIgnored : Obligations.LockedWritesAreIgnored := by
  unfold Obligations.LockedWritesAreIgnored
  intro s r v h
  have hl : writeLocked s r = true := by
    rcases h with ⟨hp, hr⟩ | ⟨ho, rfl⟩
    · exact writeLocked_of_busy hp hr
    · simp [writeLocked, ho]
  have hc : r ≠ .cmd := by
    rintro rfl
    cases hl
  exact ⟨_, hostWrite_ignored hc (.inl hl) v⟩

/-- Settles O43, from the places of the flags and the fields and the effect of a STATUS write. -/
theorem statusWordFields : Obligations.StatusWordFields := by
  unfold Obligations.StatusWordFields
  refine ⟨fun s => ?_, by decide, fun s v => ⟨s.bus.rdata, ?_⟩⟩
  · obtain ⟨hBusy, hOpen, hDone, hErr, hRej⟩ := statusWord_flags s
    obtain ⟨hLow, hOp, hPhase, hHigh⟩ := statusWord_fields s
    refine ⟨by rw [hBusy, busy_eq_true], hOpen, hDone, hErr, hRej, hLow, hOp, ?_, hHigh, rfl⟩
    rw [hPhase]
    cases s.phase <;> rfl
  · rw [hostWrite_of_admitted (show admitted 0x004#12 4#3 = some .status from admitted_regOffset .status) (by decide),
      writeReg_status]
    rfl

/-- Settles O44: the constant by its bits, the read and the write by LINECFG's offset and read-only nature. -/
theorem lineConfigurationIsFixed : Obligations.LineConfigurationIsFixed := by
  unfold Obligations.LineConfigurationIsFixed
  refine ⟨by decide, by decide, by decide, by decide, by decide, by decide, fun s => ?_, fun s v => ⟨s.bus.rdata, ?_⟩⟩
  · exact hostRead_regOffset s .lineCfg
  · exact hostWrite_ignored (r := .lineCfg) (by decide) (.inr rfl) v

end Sys2Proof.Machine
end

section
/-! What a command, an event and a step can do to the session, CMD_REJ and the host's settings
(10_state.md R27, R30, R39; 30_encoding.md R90 to R94). -/

namespace Sys2Proof.Machine

/-! ### The fields that neither a command's rule nor an event of the PHY or the tick writes -/

/-- `t` has the CMD_REJ, the host's settings and the timeout window of `s`. -/
structure KeepsSettings (s t : State) : Prop where
  cmdRej : t.cmdRej = s.cmdRej
  slaveAddr : t.slaveAddr = s.slaveAddr
  startReg : t.startReg = s.startReg
  regCount : t.regCount = s.regCount
  timeoutTicks : t.timeoutTicks = s.timeoutTicks

/-- `t` has those and STATUS.OPEN too as in `s`. -/
structure KeepsSession (s t : State) : Prop extends KeepsSettings s t where
  opened : t.opened = s.opened

/-- One operation after another, each of which keeps the session. -/
theorem KeepsSession.trans {s t u : State} (h₁ : KeepsSession s t) (h₂ : KeepsSession t u) : KeepsSession s u where
  cmdRej := h₂.cmdRej.trans h₁.cmdRej
  slaveAddr := h₂.slaveAddr.trans h₁.slaveAddr
  startReg := h₂.startReg.trans h₁.startReg
  regCount := h₂.regCount.trans h₁.regCount
  timeoutTicks := h₂.timeoutTicks.trans h₁.timeoutTicks
  opened := h₂.opened.trans h₁.opened

theorem KeepsSession.refl (s : State) : KeepsSession s s := ⟨⟨rfl, rfl, rfl, rfl, rfl⟩, rfl⟩

/-- The receiver and PARSE write none of these fields. -/
theorem KeepsSession.of_reception {s t : State} (h : sameOutsideReception s t) : KeepsSession s t := by
  obtain ⟨-, hOpen, hRej, -, hAddr, hStart, hCount, hTicks, -⟩ := h
  exact ⟨⟨hRej, hAddr, hStart, hCount, hTicks⟩, hOpen⟩

theorem keepsSession_nextDraw (s : State) : KeepsSession s (nextDraw s) := ⟨⟨rfl, rfl, rfl, rfl, rfl⟩, rfl⟩

/-! ### A command and its rule -/

/-- The words of CMD with what each runs once accepted (R93, R94). -/
inductive CommandRule : Word → (State → Result) → Prop where
  | openPort : CommandRule 0x00000001#32 (fun s => openBody (phyPresentNow s) (samplePhy s))
  | closePort : CommandRule 0x00000002#32 (fun s => .next (finish { s with opened := false }))
  | build : CommandRule 0x00000003#32 buildBody
  | exchange : CommandRule 0x00000004#32 exchangeBody
  | parse : CommandRule 0x00000005#32 parseBody
  | decode : CommandRule 0x00000006#32 decodeBody
  | crc : CommandRule 0x00000007#32 crcBody
  | xfer : CommandRule 0x00000008#32 xferBody
  | illegal {w : Word} {e : DecodeError} (h : decodeCommand w = .error e) :
      CommandRule w (fun s => .next (raiseError .illegalCommand s))

/-- The legal words of CMD, with the instruction of each (R93, R94). -/
theorem decodeCommand_ok {w : Word} {i : Instr} (h : decodeCommand w = .ok i) :
    (w = 1#32 ∧ i = .openPort) ∨ (w = 2#32 ∧ i = .closePort) ∨ (w = 3#32 ∧ i = .build) ∨ (w = 4#32 ∧ i = .exchange)
      ∨ (w = 5#32 ∧ i = .parse) ∨ (w = 6#32 ∧ i = .decode) ∨ (w = 7#32 ∧ i = .crc) ∨ (w = 8#32 ∧ i = .xfer) := by
  unfold decodeCommand at h
  split at h
  · rename_i hr
    have hw : w = 0#28 ++ opField w := by
      rw [← hr]; exact commandWord w
    rcases opcodeOf_ok h with
      ⟨ho, rfl⟩ | ⟨ho, rfl⟩ | ⟨ho, rfl⟩ | ⟨ho, rfl⟩ | ⟨ho, rfl⟩ | ⟨ho, rfl⟩ | ⟨ho, rfl⟩ | ⟨ho, rfl⟩ <;>
      rw [ho] at hw <;> subst hw <;> decide
  · cases h

/-- Every word of CMD has a rule, which its write runs unless the block is BUSY (R90, R92, R93). -/
theorem exists_commandRule (w : Word) :
    ∃ body, CommandRule w body ∧ ∀ s, runCommand w s = issue (opField w) body s := by
  cases h : decodeCommand w with
  | error e =>
    refine ⟨_, .illegal h, fun s => ?_⟩
    rw [runCommand, show Sys2Proof.decode (.command w) = .error e from h]
    rfl
  | ok i =>
    have run : ∀ s, runCommand w s = exec i s := by
      intro s
      rw [runCommand, show Sys2Proof.decode (.command w) = .ok i from h]
    rcases decodeCommand_ok h with
      ⟨rfl, rfl⟩ | ⟨rfl, rfl⟩ | ⟨rfl, rfl⟩ | ⟨rfl, rfl⟩ | ⟨rfl, rfl⟩ | ⟨rfl, rfl⟩ | ⟨rfl, rfl⟩ | ⟨rfl, rfl⟩
    · exact ⟨_, .openPort, run⟩
    · exact ⟨_, .closePort, run⟩
    · exact ⟨_, .build, run⟩
    · exact ⟨_, .exchange, run⟩
    · exact ⟨_, .parse, run⟩
    · exact ⟨_, .decode, run⟩
    · exact ⟨_, .crc, run⟩
    · exact ⟨_, .xfer, run⟩

/-- Everything a CMD write can do: it is rejected, or the word's rule runs from the accepted state (R90). -/
theorem runCommand_cases {w : Word} {s t : State} (h : runCommand w s = .next t) :
    (s.phase ≠ .idle ∧ t = reject s)
      ∨ (s.phase = .idle ∧ ∃ body, CommandRule w body ∧ body (accept (opField w) s) = .next t) := by
  obtain ⟨body, hr, hrun⟩ := exists_commandRule w
  rw [hrun] at h
  exact (issue_next h).imp_right fun ⟨hp, hb⟩ => ⟨hp, body, hr, hb⟩

/-- A CMD write while BUSY is rejected, whatever the word (R92). -/
theorem runCommand_busy {s : State} (h : s.phase ≠ .idle) (w : Word) : runCommand w s = .next (reject s) := by
  obtain ⟨body, -, hrun⟩ := exists_commandRule w
  rw [hrun, issue_busy h]

/-- Every command's rule but OPEN's and CLOSE's keeps the session and the settings (R27, R30, R35 to R39). -/
theorem CommandRule.session_cases {w : Word} {body : State → Result} (hr : CommandRule w body) {s t : State}
    (h : body s = .next t) :
    KeepsSession s t
      ∨ (w = 0x00000001#32 ∧ openBody (phyPresentNow s) (samplePhy s) = .next t)
      ∨ (w = 0x00000002#32 ∧ t = finish { s with opened := false }) := by
  cases hr with
  | openPort => exact .inr (.inl ⟨rfl, h⟩)
  | closePort => cases h; exact .inr (.inr ⟨rfl, rfl⟩)
  | build =>
    rcases buildBody_cases s with ⟨-, e⟩ | ⟨-, e⟩ <;> rw [e] at h <;> cases h <;>
      exact .inl ⟨⟨rfl, rfl, rfl, rfl, rfl⟩, rfl⟩
  | exchange =>
    rcases exchangeBody_cases s with ⟨-, e⟩ | ⟨-, -, e⟩ | ⟨-, -, e⟩ <;> rw [e] at h <;> cases h <;>
      exact .inl ⟨⟨rfl, rfl, rfl, rfl, rfl⟩, rfl⟩
  | parse => exact .inl (.of_reception (parseBody_frame h).1)
  | decode =>
    rcases decodeBody_cases s with ⟨-, e⟩ | ⟨-, e⟩ <;> rw [e] at h <;> cases h <;>
      exact .inl ⟨⟨rfl, rfl, rfl, rfl, rfl⟩, rfl⟩
  | crc =>
    rcases crcBody_cases s with ⟨-, e⟩ | ⟨-, e⟩ <;> rw [e] at h <;> cases h
    exact .inl ⟨⟨rfl, rfl, rfl, rfl, rfl⟩, rfl⟩
  | xfer =>
    rcases xferBody_cases s with ⟨-, e⟩ | ⟨-, -, e⟩ | ⟨-, -, e⟩ <;> rw [e] at h <;> cases h <;>
      exact .inl ⟨⟨rfl, rfl, rfl, rfl, rfl⟩, rfl⟩
  | illegal _ => cases h; exact .inl ⟨⟨rfl, rfl, rfl, rfl, rfl⟩, rfl⟩

/-- No command's rule writes CMD_REJ, the host's settings or the timeout window (R30, R35 to R39). -/
theorem CommandRule.keepsSettings {w : Word} {body : State → Result} (hr : CommandRule w body) {s t : State}
    (h : body s = .next t) : KeepsSettings s t := by
  rcases hr.session_cases h with hk | ⟨-, ho⟩ | ⟨-, rfl⟩
  · exact hk.toKeepsSettings
  · rcases openBody_cases (phyPresentNow s) (samplePhy s) with ⟨-, e⟩ | ⟨-, -, e⟩ | ⟨-, -, -, e⟩ | ⟨-, -, -, e⟩ <;>
      rw [e] at ho <;> cases ho <;> exact ⟨rfl, rfl, rfl, rfl, rfl⟩
  · exact ⟨rfl, rfl, rfl, rfl, rfl⟩

/-- An OPEN leaves the session open and reports no error, or it leaves it as it was and reports one (R161). -/
theorem openBody_opened {present : Bool} {s t : State} (h0 : s.errCode = 0#8) (h : openBody present s = .next t) :
    (t.opened = true ∧ t.err = false) ∨ (t.opened = s.opened ∧ t.err = true) := by
  rcases openBody_cases present s with ⟨ho, e⟩ | ⟨-, -, e⟩ | ⟨-, -, -, e⟩ | ⟨-, -, -, e⟩ <;> rw [e] at h <;> cases h
  · exact .inl ⟨ho, by simp [h0]⟩
  · exact .inr ⟨rfl, rfl⟩
  · exact .inr ⟨rfl, rfl⟩
  · exact .inl ⟨rfl, by simp [h0]⟩

/-- Of the commands only OPEN and CLOSE write STATUS.OPEN (R27). -/
theorem CommandRule.opened {w : Word} {body : State → Result} (hr : CommandRule w body) {s t : State}
    (h0 : s.errCode = 0#8) (h : body s = .next t) :
    t.opened = s.opened ∨ (w = 0x00000001#32 ∧ t.opened = true ∧ t.err = false)
      ∨ (w = 0x00000002#32 ∧ t.opened = false) := by
  rcases hr.session_cases h with hk | ⟨rfl, ho⟩ | ⟨rfl, rfl⟩
  · exact .inl hk.opened
  · rcases openBody_opened (s := samplePhy s) h0 ho with ⟨ho, he⟩ | ⟨ho, -⟩
    · exact .inr (.inl ⟨rfl, ho, he⟩)
    · exact .inl ho
  · exact .inr (.inr ⟨rfl, rfl⟩)

/-- What a CMD write does to STATUS.OPEN (R27). -/
theorem runCommand_opened {w : Word} {s t : State} (h : runCommand w s = .next t) :
    t.opened = s.opened ∨ (w = 0x00000001#32 ∧ t.opened = true ∧ t.err = false)
      ∨ (w = 0x00000002#32 ∧ t.opened = false) := by
  rcases runCommand_cases h with ⟨-, rfl⟩ | ⟨-, body, hr, hb⟩
  · exact .inl rfl
  · exact hr.opened (s := accept (opField w) s) rfl hb

/-- What a CMD write does to CMD_REJ: it sets it while BUSY, and else leaves it (R30, R92). -/
theorem runCommand_cmdRej {w : Word} {s t : State} (h : runCommand w s = .next t) :
    (s.phase ≠ .idle ∧ t.cmdRej = true) ∨ (s.phase = .idle ∧ t.cmdRej = s.cmdRej) := by
  rcases runCommand_cases h with ⟨hp, rfl⟩ | ⟨hp, body, hr, hb⟩
  · exact .inl ⟨hp, rfl⟩
  · exact .inr ⟨hp, (hr.keepsSettings hb).cmdRej⟩

/-- A CMD write leaves the timeout window (R39). -/
theorem runCommand_timeoutTicks {w : Word} {s t : State} (h : runCommand w s = .next t) :
    t.timeoutTicks = s.timeoutTicks := by
  rcases runCommand_cases h with ⟨-, rfl⟩ | ⟨-, body, hr, hb⟩
  · rfl
  · exact (hr.keepsSettings hb).timeoutTicks

/-! ### Events -/

theorem txAccept_keepsSession {s t : State} (h : txAccept s = .next t) : KeepsSession s t := by
  rcases txAccept_cases s with ⟨-, e⟩ | ⟨-, -, e⟩ | ⟨-, -, e⟩ <;> rw [e] at h <;> cases h <;>
    exact ⟨⟨rfl, rfl, rfl, rfl, rfl⟩, rfl⟩

theorem txError_keepsSession {s t : State} (h : txError s = .next t) : KeepsSession s t := by
  rcases txError_cases s with ⟨-, e⟩ | ⟨-, e⟩ <;> rw [e] at h <;> cases h <;>
    exact ⟨⟨rfl, rfl, rfl, rfl, rfl⟩, rfl⟩

theorem rxByte_keepsSession {b : Byte} {err : Bool} {s t : State} (h : rxByte b err s = .next t) :
    KeepsSession s t :=
  .of_reception (rxByte_frame h).1

theorem tick_keepsSession {s t : State} (h : tick s = .next t) : KeepsSession s t := by
  rcases tick_cases s with ⟨-, e⟩ | ⟨-, -, e⟩ | ⟨-, -, e⟩ <;> rw [e] at h <;> cases h <;>
    exact ⟨⟨rfl, rfl, rfl, rfl, rfl⟩, rfl⟩

/-- A host read changes the answer on the bus alone (R67). -/
theorem hostRead_keepsSession (offset : BitVec 12) (size : BitVec 3) (s : State) :
    KeepsSession s (hostRead offset size s) := by
  unfold hostRead
  cases admitted offset size <;> exact ⟨⟨rfl, rfl, rfl, rfl, rfl⟩, rfl⟩

/-- The events by what they can reach: a Reset, a CMD write and a write to another register each do what their rule
says; any other event leaves the session, CMD_REJ and the settings. -/
theorem handleEvent_cases {e : Event} {s t : State} (h : handleEvent e s = .next t) :
    (e = .reset ∧ t = resetBlock (nextDraw s))
      ∨ (∃ w, e = .hostWrite 0x000#12 4#3 w ∧ runCommand w (answerWrite false (nextDraw s)) = .next t)
      ∨ (∃ offset size v r, e = .hostWrite offset size v ∧ r ≠ .cmd ∧ admitted offset size = some r
          ∧ t = writeReg (answerWrite false (nextDraw s)) v r)
      ∨ KeepsSession s t := by
  have draw : KeepsSession s (nextDraw s) := keepsSession_nextDraw s
  cases e with
  | hostWrite offset size v =>
    rcases hostWrite_cases (s := nextDraw s) h with rfl | ⟨rfl, rfl, hc⟩ | ⟨r, hr, ha, ht⟩
    · exact .inr (.inr (.inr ⟨⟨rfl, rfl, rfl, rfl, rfl⟩, rfl⟩))
    · exact .inr (.inl ⟨v, rfl, hc⟩)
    · exact .inr (.inr (.inl ⟨offset, size, v, r, rfl, hr, ha, ht⟩))
  | hostRead offset size =>
    cases h
    exact .inr (.inr (.inr (draw.trans (hostRead_keepsSession offset size (nextDraw s)))))
  | txAccept => exact .inr (.inr (.inr (draw.trans (txAccept_keepsSession (s := nextDraw s) h))))
  | txError => exact .inr (.inr (.inr (draw.trans (txError_keepsSession (s := nextDraw s) h))))
  | rxByte b err => exact .inr (.inr (.inr (draw.trans (rxByte_keepsSession (b := b) (err := err) (s := nextDraw s) h))))
  | tick => exact .inr (.inr (.inr (draw.trans (tick_keepsSession (s := nextDraw s) h))))
  | reset =>
    cases h
    exact .inl ⟨rfl, rfl⟩

/-- No event writes the timeout window (R39). -/
theorem handleEvent_timeoutTicks {e : Event} {s t : State} (h : handleEvent e s = .next t) :
    t.timeoutTicks = s.timeoutTicks := by
  rcases handleEvent_cases h with ⟨-, rfl⟩ | ⟨w, -, hc⟩ | ⟨_, _, v, r, -, -, -, rfl⟩ | hk
  · rfl
  · exact runCommand_timeoutTicks (s := answerWrite false (nextDraw s)) hc
  · obtain ⟨-, -, -, -, -, -, -, -, hTicks, -⟩ := writeReg_frame (answerWrite false (nextDraw s)) v r
    exact hTicks
  · exact hk.timeoutTicks

/-! ### Steps -/

/-- The same block with another script and another announced level. -/
def withScript (items : List Input) (level : Option Bool) (s : State) : State :=
  { s with input := items, phyLevel := level }

/-- Everything a step can come to (R13): no event is left, or one event is handled, or the first byte of a frame. -/
theorem runScript_cases (items : List Input) (s : State) :
    ∃ rest level,
      runScript items s = .next (withScript rest level s)
        ∨ (∃ e, runScript items s = handleEvent e (withScript rest level s))
        ∨ ∃ kind bytes, runScript items s = runFrame kind bytes (withScript rest level s) := by
  induction items generalizing s with
  | nil => exact ⟨[], s.phyLevel, .inl rfl⟩
  | cons item rest ih =>
    cases item with
    | event e => exact ⟨rest, s.phyLevel, .inr (.inl ⟨e, rfl⟩)⟩
    | clock c =>
      cases hc : clockEvents c with
      | nil =>
        simp only [runScript, hc]
        exact ih { s with input := rest }
      | cons e es =>
        refine ⟨es.map .event ++ rest, s.phyLevel, .inr (.inl ⟨e, ?_⟩)⟩
        simp only [runScript, hc, withScript]
    | phyPresent level =>
      simp only [runScript]
      exact ih { s with input := rest, phyLevel := some level }
    | frame kind bytes =>
      cases bytes with
      | nil =>
        simp only [runScript]
        exact ih { s with input := rest }
      | cons b bs => exact ⟨rest, s.phyLevel, .inr (.inr ⟨kind, b :: bs, rfl⟩)⟩

theorem decodeRequest_ok {bytes : List Byte} {i : Instr} (h : decodeRequest bytes = .ok i) :
    ∃ slave start count check, i = .reqReadHolding slave start count check := by
  unfold decodeRequest at h
  split at h
  · split at h
    · cases h; exact ⟨_, _, _, _, rfl⟩
    · cases h
  · cases h

theorem decodeResponse_ok {bytes : List Byte} {i : Instr} (h : decodeResponse bytes = .ok i) :
    (∃ slave func byteCount payload check, i = .respReadHolding slave func byteCount payload check)
      ∨ ∃ slave func code check, i = .respException slave func code check := by
  unfold decodeResponse at h
  split at h
  · split at h
    · split at h
      · cases h; exact .inr ⟨_, _, _, _, rfl⟩
      · cases h
    · split at h
      · cases h; exact .inl ⟨_, _, _, _, _, rfl⟩
      · cases h
  · cases h

/-- A frame is bytes taken by the PHY or bytes that arrive, whether it decodes or not (logs 2, 3, 19). -/
theorem runFrame_cases (kind : FrameKind) (bytes : List Byte) (s : State) :
    (∃ n, runFrame kind bytes s = acceptBytes n s) ∨ ∃ bs, runFrame kind bytes s = receiveBytes bs s := by
  cases h : Sys2Proof.decode (.frame kind bytes) with
  | error e => exact .inr ⟨bytes, by rw [runFrame, h]⟩
  | ok i =>
    have run : runFrame kind bytes s = exec i s := by rw [runFrame, h]
    rw [run]
    cases kind with
    | request =>
      obtain ⟨slave, start, count, check, rfl⟩ := decodeRequest_ok h
      simp only [exec, execReqReadHolding]
      split
      · exact .inl ⟨_, rfl⟩
      · exact .inr ⟨_, rfl⟩
    | response =>
      rcases decodeResponse_ok h with
        ⟨slave, func, byteCount, payload, check, rfl⟩ | ⟨slave, func, code, check, rfl⟩
      · exact .inr ⟨responseFrame slave func byteCount payload check, rfl⟩
      · exact .inr ⟨exceptionFrame slave func code check, rfl⟩

/-- A frame leaves the session, CMD_REJ and the settings. -/
theorem runFrame_keepsSession {kind : FrameKind} {bytes : List Byte} {s t : State}
    (h : runFrame kind bytes s = .next t) : KeepsSession s t := by
  have queued : ∀ items : List Input, KeepsSession s (nextDraw { s with input := items }) :=
    fun _ => ⟨⟨rfl, rfl, rfl, rfl, rfl⟩, rfl⟩
  rcases runFrame_cases kind bytes s with ⟨n, e⟩ | ⟨bs, e⟩ <;> rw [e] at h
  · cases n with
    | zero => cases h; exact .refl s
    | succ n => exact (queued _).trans (txAccept_keepsSession h)
  · cases bs with
    | nil => cases h; exact .refl s
    | cons b bs => exact (queued _).trans (rxByte_keepsSession h)

/-- No step writes the timeout window (R39). -/
theorem step_timeoutTicks {s t : State} (h : step s = .next t) : t.timeoutTicks = s.timeoutTicks := by
  obtain ⟨rest, level, e | ⟨ev, e⟩ | ⟨kind, bytes, e⟩⟩ := runScript_cases s.input s <;>
    rw [step, fetchAndHandle, e] at h
  · cases h; rfl
  · exact handleEvent_timeoutTicks (s := withScript rest level s) h
  · exact (runFrame_keepsSession (s := withScript rest level s) h).timeoutTicks

/-! ### The statements on the session, CMD_REJ and the window -/

/-- Settles O58: no step writes the field, and its register is read-only. -/
theorem timeoutWindowIsConstant : Obligations.TimeoutWindowIsConstant := by
  unfold Obligations.TimeoutWindowIsConstant
  refine ⟨reset_timeoutTicks, fun s t h => step_timeoutTicks h, fun s => ?_, fun s v => ⟨s.bus.rdata, ?_⟩⟩
  · exact hostRead_regOffset s .timeoutTicks
  · exact hostWrite_ignored (r := .timeoutTicks) (by decide) (.inr rfl) v

/-- An event that changes STATUS.OPEN (R27). -/
theorem handleEvent_opened {e : Event} {s t : State} (h : handleEvent e s = .next t) (hne : t.opened ≠ s.opened) :
    (t.opened = true ∧ e = .hostWrite 0x000#12 4#3 0x00000001#32 ∧ t.err = false)
      ∨ (t.opened = false ∧ (e = .hostWrite 0x000#12 4#3 0x00000002#32 ∨ e = .reset)) := by
  rcases handleEvent_cases h with ⟨rfl, rfl⟩ | ⟨w, rfl, hc⟩ | ⟨_, _, v, r, -, -, -, rfl⟩ | hk
  · exact .inr ⟨rfl, .inr rfl⟩
  · rcases runCommand_opened hc with ho | ⟨rfl, ho, he⟩ | ⟨rfl, ho⟩
    · exact absurd ho hne
    · exact .inl ⟨ho, rfl, he⟩
    · exact .inr ⟨ho, .inl rfl⟩
  · obtain ⟨-, -, ho, -⟩ := writeReg_frame (answerWrite false (nextDraw s)) v r
    exact absurd ho hne
  · exact absurd hk.opened hne

/-- A CMD write as an event: the command runs with the draw counted and the bus answered (R90). -/
theorem handleEvent_cmd (w : Word) (s : State) :
    handleEvent (.hostWrite 0x000#12 4#3 w) s = runCommand w (answerWrite false (nextDraw s)) :=
  hostWrite_cmd w (nextDraw s)

/-- An OPEN while IDLE that reports no error leaves the session open (R27, R161). -/
theorem execOpenPort_opened {s t : State} (hp : s.phase = .idle) (h : execOpenPort s = .next t) (he : t.err = false) :
    t.opened = true := by
  rw [execOpenPort, issue_idle hp] at h
  rcases openBody_opened (s := samplePhy (accept 1#4 s)) rfl h with ⟨ho, -⟩ | ⟨-, herr⟩
  · exact ho
  · rw [he] at herr
    cases herr

/-- A CLOSE while IDLE leaves the session closed (R27, R163). -/
theorem execClosePort_opened {s t : State} (hp : s.phase = .idle) (h : execClosePort s = .next t) :
    t.opened = false := by
  rw [execClosePort, issue_idle hp] at h
  cases h
  rfl

/-- Settles O55: the events by their cases, then OPEN, CLOSE and Reset by their rules. -/
theorem sessionFlagChanges : Obligations.SessionFlagChanges := by
  unfold Obligations.SessionFlagChanges
  refine ⟨fun e s t h hne => handleEvent_opened h hne, fun s t => ⟨fun hp h he => ?_, fun hp h => ?_, fun h => ?_⟩⟩
  · rw [handleEvent_cmd] at h
    exact execOpenPort_opened (s := answerWrite false (nextDraw s)) hp h he
  · rw [handleEvent_cmd] at h
    exact execClosePort_opened (s := answerWrite false (nextDraw s)) hp h
  · cases h
    rfl

/-- An event that changes CMD_REJ (R30). -/
theorem handleEvent_cmdRej {e : Event} {s t : State} (h : handleEvent e s = .next t) (hne : t.cmdRej ≠ s.cmdRej) :
    (t.cmdRej = true ∧ s.phase ≠ .idle ∧ ∃ w, e = .hostWrite 0x000#12 4#3 w)
      ∨ (t.cmdRej = false ∧ (e = .reset ∨ ∃ v : Word, v.getLsbD 4 = true ∧ e = .hostWrite 0x004#12 4#3 v)) := by
  rcases handleEvent_cases h with ⟨rfl, rfl⟩ | ⟨w, rfl, hc⟩ | ⟨_, _, v, r, rfl, -, ha, rfl⟩ | hk
  · exact .inr ⟨rfl, .inl rfl⟩
  · rcases runCommand_cmdRej hc with ⟨hp, ht⟩ | ⟨-, ht⟩
    · exact .inl ⟨ht, hp, w, rfl⟩
    · exact absurd ht hne
  · by_cases hr : r = .status
    · subst hr
      obtain ⟨rfl, rfl⟩ := admitted_single (.inr rfl) ha
      have ht : (writeReg (answerWrite false (nextDraw s)) v .status).cmdRej = (s.cmdRej && !v.getLsbD 4) := by
        rw [writeReg_status]
        rfl
      rw [ht] at hne ⊢
      cases hv : v.getLsbD 4 with
      | false => exact absurd (by rw [hv, Bool.not_false, Bool.and_true]) hne
      | true => exact .inr ⟨by rw [Bool.not_true, Bool.and_false], .inr ⟨v, hv, rfl⟩⟩
    · exact absurd (writeReg_cmdRej hr _ v) hne
  · exact absurd hk.cmdRej hne

/-- A STATUS write as an event (R25). -/
theorem handleEvent_status (v : Word) (s : State) :
    handleEvent (.hostWrite 0x004#12 4#3 v) s = .next (writeReg (answerWrite false (nextDraw s)) v .status) :=
  hostWrite_of_admitted (admitted_regOffset .status) (by decide) v (nextDraw s)

/-- Settles O56: the events by their cases, then the CMD write while BUSY, the STATUS write and Reset by their rules. -/
theorem rejectFlagChanges : Obligations.RejectFlagChanges := by
  unfold Obligations.RejectFlagChanges
  refine ⟨fun e s t h hne => handleEvent_cmdRej h hne, fun s t v => ⟨fun hp h => ?_, fun hv h => ?_, fun h => ?_⟩⟩
  · rw [handleEvent_cmd, runCommand_busy (s := answerWrite false (nextDraw s)) hp] at h
    cases h
    rfl
  · rw [handleEvent_status, writeReg_status] at h
    cases h
    simp [hv]
  · cases h
    rfl

end Sys2Proof.Machine
end

section
/-! Which host accesses are admitted, and the answer to the others (20_memory.md R62, R63). -/

namespace Sys2Proof.Machine

/-! ### The mapped words -/

theorem singleReg_isSome_iff (k : Nat) : (singleReg k).isSome = true ↔ k ≤ 14 := by
  constructor
  · intro h
    by_contra hk
    obtain ⟨n, rfl⟩ : ∃ n, k = n + 15 := Nat.exists_eq_add_of_le' (by omega)
    have hnone : singleReg (n + 15) = none := rfl
    rw [hnone] at h
    cases h
  · intro hk
    interval_cases k <;> rfl

/-- The four ranges of R63 as word indices: the single registers, TXBUF, REGVAL, RXBUF. -/
theorem regOfWord_isSome_iff (k : Nat) :
    (regOfWord k).isSome = true ↔
      k ≤ 14 ∨ (0x40 ≤ k ∧ k ≤ 0x47) ∨ (0x80 ≤ k ∧ k ≤ 0xFE) ∨ (0x100 ≤ k ∧ k ≤ 0x203) := by
  unfold regOfWord
  split
  · rw [singleReg_isSome_iff]
    omega
  · split
    · rw [Option.isSome_dite]
      omega
    · split <;> rw [Option.isSome_dite] <;> omega

/-- An access is admitted exactly when its size is 4 and its offset is aligned and in a mapped range (R62, R63). -/
theorem admitted_isSome_iff (offset : BitVec 12) (size : BitVec 3) :
    (admitted offset size).isSome = true ↔ size = 4#3 ∧ offset.toNat % 4 = 0 ∧
      (offset.toNat ≤ 0x038 ∨ (0x100 ≤ offset.toNat ∧ offset.toNat ≤ 0x11C)
        ∨ (0x200 ≤ offset.toNat ∧ offset.toNat ≤ 0x3F8) ∨ (0x400 ≤ offset.toNat ∧ offset.toNat ≤ 0x80C)) := by
  rw [admitted, ← and_assoc]
  split
  · next hword =>
    have haligned : offset.toNat % 4 = 0 := hword.2
    rw [regOfWord_isSome_iff, and_iff_right hword]
    omega
  · next hword => simp only [hword, false_and, Option.isSome_none, Bool.false_eq_true]

/-! ### The answers -/

/-- An admitted read is answered without an error, with the register (R62). -/
theorem hostRead_of_admitted {offset : BitVec 12} {size : BitVec 3} {r : Reg} (h : admitted offset size = some r)
    (s : State) : hostRead offset size s = { s with bus := ⟨false, readReg s r⟩ } := by
  rw [hostRead, h]
  rfl

/-- A read that is not admitted gets the error response with data 0 and changes nothing else (R62). -/
theorem hostRead_of_not_admitted {offset : BitVec 12} {size : BitVec 3} (h : admitted offset size = none)
    (s : State) : hostRead offset size s = { s with bus := ⟨true, 0#32⟩ } := by
  rw [hostRead, h]
  rfl

/-- A write that is not admitted gets the error response and changes nothing else (R62). -/
theorem hostWrite_of_not_admitted {offset : BitVec 12} {size : BitVec 3} (h : admitted offset size = none)
    (v : Word) (s : State) : hostWrite offset size v s = .next { s with bus := ⟨true, s.bus.rdata⟩ } := by
  rw [hostWrite, h]
  rfl

/-- Settles O37: the statement's condition is admission, and each side of it has its answer. -/
theorem unadmittedAccessIsAnError : Obligations.UnadmittedAccessIsAnError := by
  unfold Obligations.UnadmittedAccessIsAnError
  intro s offset size v
  rw [← admitted_isSome_iff]
  constructor
  · intro h
    obtain ⟨r, hr⟩ := Option.isSome_iff_exists.1 h
    rw [hostRead_of_admitted hr]
  · intro h
    have hnone : admitted offset size = none := Option.not_isSome_iff_eq_none.1 h
    exact ⟨hostRead_of_not_admitted hnone s, s.bus.rdata, hostWrite_of_not_admitted hnone v s⟩

end Sys2Proof.Machine
end

section
/-! Which words of CMD are legal, and the answer to an illegal word and to any word while BUSY (30_encoding.md R92, R93). -/

namespace Sys2Proof.Machine

/-- R93: the legal words are 1 to 8, each with its instruction of R94. -/
theorem decodes_command_iff (w : Word) :
    (∃ i, Sys2Proof.decode (.command w) = .ok i) ↔ 1 ≤ w.toNat ∧ w.toNat ≤ 8 := by
  constructor
  · rintro ⟨i, h⟩
    rcases decodeCommand_ok h with
      ⟨rfl, -⟩ | ⟨rfl, -⟩ | ⟨rfl, -⟩ | ⟨rfl, -⟩ | ⟨rfl, -⟩ | ⟨rfl, -⟩ | ⟨rfl, -⟩ | ⟨rfl, -⟩ <;> decide
  · rintro ⟨hlo, hhi⟩
    have hw : w = BitVec.ofNat 32 w.toNat := BitVec.eq_of_toNat_eq (by simp)
    rw [hw]
    interval_cases w.toNat
    · exact ⟨.openPort, rfl⟩
    · exact ⟨.closePort, rfl⟩
    · exact ⟨.build, rfl⟩
    · exact ⟨.exchange, rfl⟩
    · exact ⟨.parse, rfl⟩
    · exact ⟨.decode, rfl⟩
    · exact ⟨.crc, rfl⟩
    · exact ⟨.xfer, rfl⟩

/-- A word that does not decode, written while IDLE, is accepted and fails (R32, R93). -/
theorem runCommand_illegal {w : Word} (hw : ¬ ∃ i, Sys2Proof.decode (.command w) = .ok i) {s : State}
    (hp : s.phase = .idle) : runCommand w s = .next (raiseError .illegalCommand (accept (opField w) s)) := by
  cases h : Sys2Proof.decode (.command w) with
  | ok i => exact absurd ⟨i, h⟩ hw
  | error e => rw [runCommand, h, illegalCommand, issue_idle hp]

/-- Everything an illegal command changes of an IDLE block: `accept` clears EXC_CODE and `raise` leaves it, and the
block is back in IDLE (R12, R31, R32). -/
theorem raiseError_illegalCommand_accept {s : State} (hp : s.phase = .idle) (op : BitVec 4) :
    raiseError .illegalCommand (accept op s)
      = { s with lastOp := op, done := true, err := true, errCode := 0x3F#8, excCode := 0#8 } := by
  cases s
  cases hp
  rfl

/-- Settles O7: the legal words by their decoding, the others by `accept` and `raise`. -/
theorem illegalWordsEndAtOnce : Obligations.IllegalWordsEndAtOnce := by
  unfold Obligations.IllegalWordsEndAtOnce
  refine ⟨decodes_command_iff, fun s w hp hw => ?_⟩
  rw [runCommand_illegal (mt (decodes_command_iff w).1 hw) hp, raiseError_illegalCommand_accept hp]
  rfl

/-- Settles O8: a CMD write while BUSY is `reject`, which sets CMD_REJ alone. -/
theorem commandWhileBusyIsRejected : Obligations.CommandWhileBusyIsRejected := by
  unfold Obligations.CommandWhileBusyIsRejected
  exact fun s w hp => runCommand_busy hp w

end Sys2Proof.Machine
end

section
/-! The frame codec's commands: what BUILD, PARSE and CRC leave in the registers and the buffers
(40_frame_codec.md R122, R124, R130). -/

namespace Sys2Proof.Machine

/-! ### How a command ends -/

theorem codeNumber_ne_zero (e : ErrorCode) : codeNumber e ≠ 0#8 := by
  cases e <;> simp [codeNumber]

/-- `finish` with nothing reported (R31): the command ends without an error. -/
theorem finish_of_noError {s : State} (hCode : s.errCode = 0#8) (hExc : s.excCode = 0#8) :
    finish s = { s with phase := .idle, done := true, err := false, errCode := 0#8, excCode := 0#8 } := by
  cases s
  cases hCode
  cases hExc
  rfl

/-- `raise` (R12): the command ends with the error, and ERR is 1 since no error has the number 0. -/
theorem raiseError_eq (e : ErrorCode) (s : State) :
    raiseError e s = { s with phase := .idle, done := true, err := true, errCode := codeNumber e
                              excCode := excAfter e s.excCode } := by
  have hErr : decide (codeNumber e ≠ 0#8) = true := decide_eq_true (codeNumber_ne_zero e)
  rw [raiseError, finish, hErr]

/-- An atomic command that ends without an error leaves the phase as it was. -/
theorem finish_of_idle {s : State} (hp : s.phase = .idle) (hCode : s.errCode = 0#8) (hExc : s.excCode = 0#8) :
    finish s = { s with done := true, err := false, errCode := 0#8, excCode := 0#8 } := by
  rw [finish_of_noError hCode hExc, ← hp]

/-- An atomic command that ends with an error leaves the phase as it was. -/
theorem raiseError_of_idle {s : State} (hp : s.phase = .idle) (e : ErrorCode) :
    raiseError e s = { s with done := true, err := true, errCode := codeNumber e
                              excCode := excAfter e s.excCode } := by
  rw [raiseError_eq, ← hp]

/-! ### CRC -/

/-- CRC while IDLE runs from the accepted state (R32, R130). -/
theorem exec_crc_idle {s : State} (hp : s.phase = .idle) : exec .crc s = crcBody (accept 7#4 s) :=
  issue_idle hp 7#4 crcBody

/-- CRC of a frame that RXBUF can hold (R130). -/
theorem crcBody_of_le {s : State} (h : s.rxLen.toNat ≤ rxBufSize) :
    crcBody s = .next (finish { s with crcResult := crc16 (rxFrame s s.rxLen.toNat) }) := by
  rcases crcBody_cases s with ⟨hLong, -⟩ | ⟨-, e⟩
  · exact absurd h (Nat.not_le.2 hLong)
  · exact e

/-- Settles O20: CRC runs from the accepted state, where no error is reported, and finishes. -/
theorem crcOutcome : Obligations.CrcOutcome := by
  unfold Obligations.CrcOutcome
  intro s hp hLen
  rw [exec_crc_idle hp, crcBody_of_le (s := accept 7#4 s) hLen, finish_of_idle]
  · rfl
  · exact hp
  · rfl
  · rfl

/-! ### BUILD -/

/-- BUILD while IDLE runs from the accepted state (R32, R122). -/
theorem exec_build_idle {s : State} (hp : s.phase = .idle) : exec .build s = buildBody (accept 3#4 s) :=
  issue_idle hp 3#4 buildBody

/-- Bytes written into TXBUF from its first entry on: entry `k` holds byte `k`. -/
theorem writeTxBuf_read_entry (m : Memory) {bs : List Byte} {k : Nat} (hk : k < bs.length) :
    (writeTxBuf m 0 bs).read (txAddr k) = bs[k]? := by
  have hOffset : txAddr k - txAddr 0 = 4 * k := by unfold txAddr; omega
  have hBase : txAddr 0 ≤ txAddr k := by unfold txAddr; omega
  rw [writeTxBuf_read, hOffset, Nat.mul_div_cancel_left k (by decide),
    if_pos ⟨hBase, Nat.mul_mod_right 4 k, hk⟩]

/-- Bytes written into TXBUF from its first entry on leave every offset outside those entries as it was. -/
theorem writeTxBuf_read_other (m : Memory) {bs : List Byte} {a : Nat} (ha : ∀ k, k < bs.length → a ≠ txAddr k) :
    (writeTxBuf m 0 bs).read a = m.read a := by
  rw [writeTxBuf_read, if_neg]
  rintro ⟨hBase, hAligned, hLt⟩
  refine ha _ hLt ?_
  unfold txAddr at *
  omega

/-- BUILD while IDLE with an address in range: the request stands in TXBUF and TX_LEN is 8 (R122). -/
theorem exec_build_of_addressOk {s : State} (hp : s.phase = .idle) (ha : addressOk s = true) :
    exec .build s
      = .next { s with done := true, err := false, lastOp := 3#4, errCode := 0#8, excCode := 0#8, txLen := 8#4
                       mem := writeTxBuf s.mem 0 (builtFrame s) } := by
  rw [exec_build_idle hp]
  rcases buildBody_cases (accept 3#4 s) with ⟨hBad, -⟩ | ⟨-, e⟩
  · exact absurd (ha.symm.trans hBad) (by decide)
  · rw [e, finish_of_idle]
    · rfl
    · exact hp
    · rfl
    · rfl

/-- BUILD while IDLE with an address out of range is refused with nothing built (R122). -/
theorem exec_build_of_not_addressOk {s : State} (hp : s.phase = .idle) (ha : ¬ addressOk s = true) :
    exec .build s
      = .next { s with done := true, err := true, lastOp := 3#4, errCode := 0x30#8, excCode := 0#8 } := by
  rw [exec_build_idle hp]
  rcases buildBody_cases (accept 3#4 s) with ⟨-, e⟩ | ⟨hGood, -⟩
  · rw [e, raiseError_of_idle]
    · rfl
    · exact hp
  · exact absurd hGood ha

/-- Settles O14: the two outcomes of BUILD, and TXBUF read back entry by entry. -/
theorem buildWritesRequest : Obligations.BuildWritesRequest := by
  unfold Obligations.BuildWritesRequest
  intro s hp
  rw [← addressOk_iff]
  refine ⟨fun ha => ⟨_, exec_build_of_addressOk hp ha, rfl, ?_⟩, exec_build_of_not_addressOk hp⟩
  have entry : ∀ k, k < 8 → (writeTxBuf s.mem 0 (builtFrame s)).read (txAddr k) = (builtFrame s)[k]? :=
    fun k hk => writeTxBuf_read_entry s.mem (bs := builtFrame s) hk
  exact ⟨entry 0 (by decide), entry 1 (by decide), entry 2 (by decide), entry 3 (by decide), entry 4 (by decide),
    entry 5 (by decide), ⟨entry 6 (by decide), entry 7 (by decide)⟩,
    fun a ha => writeTxBuf_read_other s.mem (bs := builtFrame s) ha⟩

/-! ### PARSE -/

/-- PARSE while IDLE runs from the accepted state (R32, R124). -/
theorem exec_parse_idle {s : State} (hp : s.phase = .idle) : exec .parse s = parseBody (accept 5#4 s) :=
  issue_idle hp 5#4 parseBody

/-- Check (1) fails (R124). -/
theorem parseBody_of_short {s : State} (h : s.rxLen.toNat < 5) :
    parseBody s = .next (parseFail .frameTooShort s) := by
  simp only [parseBody, h, if_true]

/-- Check (2) fails: CRC_RESULT is the recomputed CRC (R43, R124). -/
theorem parseBody_of_crc_ne {s : State} (h₅ : 5 ≤ s.rxLen.toNat) (hLen : s.rxLen.toNat ≤ rxBufSize)
    (hCrc : crc16 (rxFrame s (s.rxLen.toNat - 2)) ≠ trailer s s.rxLen.toNat) :
    parseBody s = .next (parseFail .crcMismatch (withCrcResult s)) := by
  rcases parseBody_cases s with ⟨h, -⟩ | ⟨h, -⟩ | ⟨-, -, -, e⟩ | ⟨-, -, h, -⟩
  · exact absurd h₅ (Nat.not_le.2 h)
  · exact absurd hLen (Nat.not_le.2 h)
  · exact e
  · exact absurd h hCrc

/-- Check (2) passes: CRC_RESULT is the recomputed CRC, and the header is next (R43, R124). -/
theorem parseBody_of_crc_eq {s : State} (h₅ : 5 ≤ s.rxLen.toNat) (hLen : s.rxLen.toNat ≤ rxBufSize)
    (hCrc : crc16 (rxFrame s (s.rxLen.toNat - 2)) = trailer s s.rxLen.toNat) :
    parseBody s = .next (parseHeader s.rxLen.toNat (withCrcResult s)) := by
  rcases parseBody_cases s with ⟨h, -⟩ | ⟨h, -⟩ | ⟨-, -, h, -⟩ | ⟨-, -, -, e⟩
  · exact absurd h₅ (Nat.not_le.2 h)
  · exact absurd hLen (Nat.not_le.2 h)
  · exact absurd hCrc h
  · exact e

/-- Check (3) fails (R124). -/
theorem parseHeader_of_address_ne (len : Nat) {s : State} (hAddr : rxBuf s 0 ≠ s.slaveAddr) :
    parseHeader len s = parseFail .addressMismatch s := by
  simp only [parseHeader, ne_eq, hAddr, not_false_eq_true, if_true]

/-- Check (4) fails: bit 7 of byte 1 marks an exception, whose code is byte 2 (R124). -/
theorem parseHeader_of_exception (len : Nat) {s : State} (hAddr : rxBuf s 0 = s.slaveAddr)
    (hFunc : (rxBuf s 1).getLsbD 7 = true) :
    parseHeader len s = parseFail (.exceptionResponse (rxBuf s 2)) s := by
  simp only [parseHeader, ne_eq, hAddr, hFunc, not_true_eq_false, if_false, if_true]

/-- Check (5) fails (R124). -/
theorem parseHeader_of_byteCount_ne (len : Nat) {s : State} (hAddr : rxBuf s 0 = s.slaveAddr)
    (hFunc : (rxBuf s 1).getLsbD 7 = false) (hCount : (rxBuf s 2).toNat ≠ 2 * s.regCount.toNat) :
    parseHeader len s = parseFail .byteCountMismatch s := by
  simp only [parseHeader, ne_eq, hAddr, hFunc, hCount, not_true_eq_false, not_false_eq_true, Bool.false_eq_true,
    if_false, if_true]

/-- Check (6) fails (R124). -/
theorem parseHeader_of_short {len : Nat} {s : State} (hAddr : rxBuf s 0 = s.slaveAddr)
    (hFunc : (rxBuf s 1).getLsbD 7 = false) (hCount : (rxBuf s 2).toNat = 2 * s.regCount.toNat)
    (hLen : len < 5 + 2 * s.regCount.toNat) : parseHeader len s = parseFail .frameTooShort s := by
  simp only [parseHeader, ne_eq, hAddr, hFunc, hCount, hLen, not_true_eq_false, Bool.false_eq_true, if_false, if_true]

/-- Every check passes (R124). -/
theorem parseHeader_of_accepted {len : Nat} {s : State} (hAddr : rxBuf s 0 = s.slaveAddr)
    (hFunc : (rxBuf s 1).getLsbD 7 = false) (hCount : (rxBuf s 2).toNat = 2 * s.regCount.toNat)
    (hLen : 5 + 2 * s.regCount.toNat ≤ len) : parseHeader len s = parseAccept s := by
  simp only [parseHeader, ne_eq, hAddr, hFunc, hCount, Nat.not_lt.2 hLen, not_true_eq_false, Bool.false_eq_true,
    if_false]

/-- A failed check changes this and nothing else; EXC_CODE is that of the error, as none was reported before
(R12, R124). -/
theorem parseFail_of_noError {s : State} (hExc : s.excCode = 0#8) (e : ErrorCode) :
    parseFail e s = { s with phase := .idle, done := true, err := true, errCode := codeNumber e
                             excCode := excAfter e 0#8, regN := 0#8 } := by
  rw [parseFail, raiseError_eq, ← hExc]

/-- A check of the header fails: the error, with CRC_RESULT the recomputed CRC (R43, R124). -/
theorem parseBody_of_header_fails {s : State} {e : ErrorCode} (hExc : s.excCode = 0#8) (h₅ : 5 ≤ s.rxLen.toNat)
    (hLen : s.rxLen.toNat ≤ rxBufSize) (hCrc : crc16 (rxFrame s (s.rxLen.toNat - 2)) = trailer s s.rxLen.toNat)
    (hHeader : parseHeader s.rxLen.toNat (withCrcResult s) = parseFail e (withCrcResult s)) :
    parseBody s = .next { s with phase := .idle, done := true, err := true, errCode := codeNumber e
                                 excCode := excAfter e 0#8, regN := 0#8
                                 crcResult := crc16 (rxFrame s (s.rxLen.toNat - 2)) } := by
  rw [parseBody_of_crc_eq h₅ hLen hCrc, hHeader, parseFail_of_noError (s := withCrcResult s) hExc]
  rfl

/-- The registers of a response of which PARSE delivers REG_COUNT (R124). -/
def responseRegs (s : State) : List Half := (List.range s.regCount.toNat).map (responseReg s)

theorem length_responseRegs (s : State) : (responseRegs s).length = s.regCount.toNat := by
  simp [responseRegs]

/-- What an accepted frame changes, and nothing else (R124). -/
theorem parseAccept_of_noError {s : State} (hCode : s.errCode = 0#8) (hExc : s.excCode = 0#8) :
    parseAccept s = { s with phase := .idle, done := true, err := false, errCode := 0#8, excCode := 0#8
                             regN := s.regCount.extractLsb' 0 8
                             respHdr := rxBuf s 2 ++ rxBuf s 1 ++ rxBuf s 0
                             mem := writeRegVals s.mem 0 (responseRegs s) } := by
  rw [parseAccept, finish_of_noError]
  · rfl
  · exact hCode
  · exact hExc

/-- The storage of REGVAL[i] after an accepted frame: register `i`, low byte first (R124, log 11). -/
theorem parseAccept_read {s : State} {i : Nat} (hi : i < s.regCount.toNat) :
    (parseAccept s).mem.read (regValAddr i) = some (loByte (responseReg s i))
      ∧ (parseAccept s).mem.read (regValAddr i + 1) = some (hiByte (responseReg s i)) := by
  have hEntry : (responseRegs s)[i]'(by rwa [length_responseRegs]) = responseReg s i := by simp [responseRegs]
  have hRead := writeRegVals_read (responseRegs s) s.mem 0 i (by rwa [length_responseRegs])
  rw [hEntry, Nat.zero_add] at hRead
  exact hRead

/-- REGVAL[i] after an accepted frame is register `i` of the response (R124). -/
theorem regVal_parseAccept {s : State} {i : Nat} (hi : i < s.regCount.toNat) :
    regVal (parseAccept s) i = responseReg s i := by
  obtain ⟨hLow, hHigh⟩ := parseAccept_read hi
  rw [regVal, peek_of_read hLow, peek_of_read hHigh, joinBytes_hi_lo]

/-- An accepted frame writes no offset outside REGVAL[0..REG_COUNT) (R124). -/
theorem parseAccept_read_other {s : State} {a : Nat}
    (ha : ∀ i, i < s.regCount.toNat → a ≠ regValAddr i ∧ a ≠ regValAddr i + 1) :
    (parseAccept s).mem.read a = s.mem.read a := by
  refine writeRegVals_read_other (responseRegs s) s.mem 0 a fun i hi => ?_
  rw [length_responseRegs] at hi
  rw [Nat.zero_add]
  exact ha i hi

/-- Settles O17: each check's failure and the accepted frame by their rules, for PARSE in any command with nothing
reported; the command PARSE runs from its accepted state, which is one. -/
theorem parseOutcome : Obligations.ParseOutcome := by
  unfold Obligations.ParseOutcome
  intro outcome
  have inAnyCommand : ∀ u : State, u.rxLen.toNat ≤ 260 → u.errCode = 0#8 → u.excCode = 0#8 →
      outcome (parseBody u) u := by
    intro u hLen hCode hExc
    refine ⟨fun hShort => ?_, fun h₅ hCrc => ?_, fun h₅ hCrc hAddr => ?_, fun h₅ hCrc hAddr hFunc => ?_,
      fun h₅ hCrc hAddr hFunc hCount => ?_, fun h₅ hCrc hAddr hFunc hCount hPayload => ?_,
      fun h₅ hCrc hAddr hFunc hCount hPayload => ?_⟩
    · rw [parseBody_of_short hShort, parseFail_of_noError hExc]
      rfl
    · rw [parseBody_of_crc_ne h₅ hLen hCrc, parseFail_of_noError (s := withCrcResult u) hExc]
      rfl
    · exact parseBody_of_header_fails hExc h₅ hLen hCrc (parseHeader_of_address_ne _ (s := withCrcResult u) hAddr)
    · exact parseBody_of_header_fails hExc h₅ hLen hCrc
        (parseHeader_of_exception _ (s := withCrcResult u) hAddr hFunc)
    · exact parseBody_of_header_fails hExc h₅ hLen hCrc
        (parseHeader_of_byteCount_ne _ (s := withCrcResult u) hAddr hFunc hCount)
    · exact parseBody_of_header_fails hExc h₅ hLen hCrc
        (parseHeader_of_short (s := withCrcResult u) hAddr hFunc hCount hPayload)
    · refine ⟨parseAccept (withCrcResult u), ?_, ?_, fun i hi => ?_, fun a ha => ?_⟩
      · rw [parseBody_of_crc_eq h₅ hLen hCrc,
          parseHeader_of_accepted (s := withCrcResult u) hAddr hFunc hCount hPayload]
      · exact parseAccept_of_noError (s := withCrcResult u) hCode hExc
      · obtain ⟨hLow, hHigh⟩ := parseAccept_read (s := withCrcResult u) hi
        exact ⟨regVal_parseAccept (s := withCrcResult u) hi, by rw [hLow]; rfl, by rw [hHigh]; rfl⟩
      · exact parseAccept_read_other (s := withCrcResult u) ha
  refine ⟨fun s hp hLen => ?_, inAnyCommand⟩
  rw [exec_parse_idle hp]
  exact inAnyCommand (accept 5#4 s) hLen rfl rfl

end Sys2Proof.Machine
end

section
/-! The transport: the session commands, the accept step of EXCHANGE, and the events of a running exchange
(41_transport.md R161 to R175). -/

namespace Sys2Proof.Machine

/-! ### The RX assembler -/

/-- The completion test in the words of R169. -/
theorem frameComplete_iff (s : State) (len : Nat) :
    frameComplete s len = true ↔ (2 ≤ len ∧ (rxBuf s 1).getLsbD 7 = true ∧ len = 5)
      ∨ (3 ≤ len ∧ (rxBuf s 1).getLsbD 7 = false ∧ len = 5 + (rxBuf s 2).toNat) := by
  simp [frameComplete, and_assoc]

/-- The counted RX_LEN as the number it stands for (R168). -/
theorem storeRxByte_eq (b : Byte) (s : State) :
    storeRxByte b s = { s with mem := s.mem.write (rxAddr s.rxLen.toNat) b
                               rxLen := BitVec.ofNat 9 (s.rxLen.toNat + 1) } := by
  rw [storeRxByte, BitVec.ofNat_add, BitVec.ofNat_toNat, BitVec.setWidth_eq]

/-- `frame_done` in an XFER (R175, R231). -/
theorem frameDone_of_xfer {s : State} (h : s.lastOp = 8#4) : frameDone s = parseBody s := by
  simp only [frameDone, isXfer, h, decide_true, if_true]

/-- `frame_done` in any other command (R175). -/
theorem frameDone_of_not_xfer {s : State} (h : s.lastOp ≠ 8#4) : frameDone s = .next (finish s) := by
  simp only [frameDone, isXfer, h, decide_false, Bool.false_eq_true, if_false]

/-- A byte without error for which RXBUF has room is stored; it may complete the frame (R168, R169). -/
theorem rxByte_of_room {s : State} (hp : s.phase = .rx) (hRoom : s.rxLen.toNat < rxBufSize) (b : Byte) :
    rxByte b false s = if frameComplete (storeRxByte b s) (s.rxLen.toNat + 1) = true
      then frameDone (storeRxByte b s) else .next (storeRxByte b s) := by
  rcases rxByte_cases b false s with ⟨h, -⟩ | ⟨-, h, -⟩ | ⟨-, -, h, -⟩ | ⟨-, -, -, hc, e⟩ | ⟨-, -, -, hc, e⟩
  · exact absurd hp h
  · cases h
  · exact absurd hRoom (Nat.not_lt.2 h)
  · rw [storeRxByte_len b hRoom] at hc
    rw [e, hc, if_neg Bool.false_ne_true]
  · rw [storeRxByte_len b hRoom] at hc
    rw [e, if_pos hc]

/-- Settles O32: the byte is stored, and the completion test decides between the three outcomes. -/
theorem rxByteIsAssembled : Obligations.RxByteIsAssembled := by
  unfold Obligations.RxByteIsAssembled
  intro s b hp hRoom t len complete
  have hStore : storeRxByte b s = t := storeRxByte_eq b s
  have hComplete : frameComplete t len = true ↔ complete := frameComplete_iff t len
  rw [rxByte_of_room hp hRoom, hStore]
  refine ⟨fun hc => ?_, fun hc hXfer => ?_, fun hc hXfer => ?_⟩
  · rw [if_neg (mt hComplete.1 hc)]
  · rw [if_pos (hComplete.2 hc), frameDone_of_xfer (s := t) hXfer]
  · rw [if_pos (hComplete.2 hc), frameDone_of_not_xfer (s := t) hXfer]
    rfl

/-- A byte with an error in the RX phase (R170). -/
theorem rxByte_of_error {s : State} (hp : s.phase = .rx) (b : Byte) :
    rxByte b true s = .next (raiseError .ioError s) := by
  rcases rxByte_cases b true s with ⟨h, -⟩ | ⟨-, -, e⟩ | ⟨-, h, -⟩ | ⟨-, h, -⟩ | ⟨-, h, -⟩
  · exact absurd hp h
  · exact e
  · cases h
  · cases h
  · cases h

/-- A byte outside the RX phase (R171). -/
theorem rxByte_of_not_rx {s : State} (hp : s.phase ≠ .rx) (b : Byte) (err : Bool) : rxByte b err s = .next s := by
  rw [rxByte, if_pos hp]

/-- Settles O33: R170 by `raise`, which leaves REG_N, and R171. -/
theorem rxErrorAndStrayBytes : Obligations.RxErrorAndStrayBytes := by
  unfold Obligations.RxErrorAndStrayBytes
  refine ⟨fun s b hp => ⟨s.regN, .inl rfl, ?_⟩, fun s b err hp => rxByte_of_not_rx hp b err⟩
  rw [rxByte_of_error hp, raiseError_eq]
  rfl

/-! ### The TX engine's signals -/

/-- A TxError in the TX phase (R166). -/
theorem txError_of_tx {s : State} (hp : s.phase = .tx) : txError s = .next (raiseError .ioError s) := by
  rcases txError_cases s with ⟨h, -⟩ | ⟨-, e⟩
  · exact absurd hp h
  · exact e

/-- A TxAccept outside the TX phase (R167). -/
theorem txAccept_of_not_tx {s : State} (hp : s.phase ≠ .tx) : txAccept s = .next s := by
  rw [txAccept, if_pos hp]

/-- A TxError outside the TX phase (R167). -/
theorem txError_of_not_tx {s : State} (hp : s.phase ≠ .tx) : txError s = .next s := by
  rw [txError, if_neg hp]

/-- Settles O31: R166 by `raise`, which leaves REG_N, and R167 for both signals. -/
theorem txErrorAndIdleTxSignals : Obligations.TxErrorAndIdleTxSignals := by
  unfold Obligations.TxErrorAndIdleTxSignals
  refine ⟨fun s hp => ⟨s.regN, .inl rfl, ?_⟩, fun s hp => ⟨txAccept_of_not_tx hp, txError_of_not_tx hp⟩⟩
  rw [txError_of_tx hp, raiseError_eq]
  rfl

/-! ### The timeout controller -/

/-- A Tick while IDLE (R173). -/
theorem tick_of_idle {s : State} (hp : s.phase = .idle) : tick s = .next s := by
  rw [tick, if_pos hp]

/-- A Tick inside the window (R172). -/
theorem tick_of_running {s : State} (hp : s.phase ≠ .idle) (hTimer : s.timer + 1#32 ≠ s.timeoutTicks) :
    tick s = .next { s with timer := s.timer + 1#32 } := by
  rw [tick, if_neg hp, if_neg hTimer]

/-- The Tick that elapses the window (R172). -/
theorem tick_of_elapsed {s : State} (hp : s.phase ≠ .idle) (hTimer : s.timer + 1#32 = s.timeoutTicks) :
    tick s = .next (raiseError .timeout { s with timer := s.timeoutTicks }) := by
  rw [tick, if_neg hp, if_pos hTimer, hTimer]

/-- Settles O34: the three cases of a Tick; the one that elapses the window is a `raise`, which leaves REG_N. -/
theorem tickCountsAndTimesOut : Obligations.TickCountsAndTimesOut := by
  unfold Obligations.TickCountsAndTimesOut
  refine ⟨fun s hp hTimer => tick_of_running hp hTimer, fun s hp hTimer => ⟨s.regN, .inl rfl, ?_⟩,
    fun s hp => tick_of_idle hp⟩
  rw [tick_of_elapsed hp hTimer, raiseError_eq]
  rfl

/-! ### The session -/

/-- OPEN while IDLE runs from the accepted state with the level of `phy_present` sampled (R32, R161). -/
theorem exec_openPort_idle {s : State} (hp : s.phase = .idle) :
    exec .openPort s = openBody (phyPresentNow s) (samplePhy (accept 1#4 s)) :=
  issue_idle hp 1#4 fun t => openBody (phyPresentNow t) (samplePhy t)

/-- OPEN in an open session (R161). -/
theorem openBody_of_opened {s : State} (hOpen : s.opened = true) (present : Bool) :
    openBody present s = .next (finish s) := by
  simp only [openBody, hOpen, if_true]

/-- OPEN with an address out of range (R161). -/
theorem openBody_of_not_addressOk {s : State} (hOpen : s.opened = false) (ha : ¬ addressOk s = true) (present : Bool) :
    openBody present s = .next (raiseError .invalidSlaveAddress s) := by
  simp only [openBody, hOpen, ha, Bool.not_false, Bool.false_eq_true, if_false, if_true]

/-- OPEN past the two checks of R161 that come before the PHY's. -/
theorem openBody_of_addressOk {s : State} (hOpen : s.opened = false) (ha : addressOk s = true) (present : Bool) :
    openBody present s = if present = true then .next (finish { s with opened := true })
      else .next (raiseError .portUnavailable s) := by
  cases present <;>
    simp only [openBody, hOpen, ha, Bool.not_true, Bool.not_false, Bool.false_eq_true, if_false, if_true]

/-- Settles O12: the checks of OPEN in order, each with its end from the accepted state; no announced level is left
afterwards. -/
theorem openOutcome : Obligations.OpenOutcome := by
  unfold Obligations.OpenOutcome
  intro s hp
  rw [← addressOk_iff, exec_openPort_idle hp]
  refine ⟨none, fun hOpen => ?_, fun hOpen ha => ?_, fun hOpen ha hPhy => ?_, fun hOpen ha hPhy => ?_⟩
  · rw [openBody_of_opened (s := samplePhy (accept 1#4 s)) hOpen,
      finish_of_idle (s := samplePhy (accept 1#4 s)) hp rfl rfl]
    rfl
  · rw [openBody_of_not_addressOk (s := samplePhy (accept 1#4 s)) hOpen ha,
      raiseError_of_idle (s := samplePhy (accept 1#4 s)) hp]
    rfl
  · rw [openBody_of_addressOk (s := samplePhy (accept 1#4 s)) hOpen ha, hPhy, if_neg Bool.false_ne_true,
      raiseError_of_idle (s := samplePhy (accept 1#4 s)) hp]
    rfl
  · rw [openBody_of_addressOk (s := samplePhy (accept 1#4 s)) hOpen ha, hPhy, if_pos rfl,
      finish_of_idle (s := { samplePhy (accept 1#4 s) with opened := true }) hp rfl rfl]
    rfl

/-- Settles O13: CLOSE finishes from the accepted state, where no error is reported, and while BUSY it is `reject`. -/
theorem closeOutcome : Obligations.CloseOutcome := by
  unfold Obligations.CloseOutcome
  refine ⟨fun s hp => ?_, fun s hp => ?_⟩
  · rw [exec, execClosePort, issue_idle hp, finish_of_idle (s := { accept 2#4 s with opened := false }) hp rfl rfl]
    rfl
  · rw [exec, execClosePort, issue_busy hp, reject]

/-! ### EXCHANGE at its accept step -/

/-- EXCHANGE while IDLE runs from the accepted state (R32, R164). -/
theorem exec_exchange_idle {s : State} (hp : s.phase = .idle) : exec .exchange s = exchangeBody (accept 4#4 s) :=
  issue_idle hp 4#4 exchangeBody

/-- EXCHANGE without a session (R164). -/
theorem exchangeBody_of_closed {s : State} (hOpen : s.opened = false) :
    exchangeBody s = .next (raiseError .notOpen s) := by
  simp only [exchangeBody, hOpen, Bool.not_false, if_true]

/-- EXCHANGE in a session: with nothing built it only receives (R164). -/
theorem exchangeBody_of_opened {s : State} (hOpen : s.opened = true) :
    exchangeBody s = if s.txLen = 0#4 then .next { startExchange s with phase := .rx }
      else .next { startExchange s with phase := .tx } := by
  simp only [exchangeBody, hOpen, Bool.not_true, Bool.false_eq_true, if_false]

/-- Settles O15: the three outcomes of the accept step, from the accepted state. -/
theorem exchangeAccept : Obligations.ExchangeAccept := by
  unfold Obligations.ExchangeAccept
  intro s hp
  rw [exec_exchange_idle hp]
  refine ⟨fun hOpen => ?_, fun hOpen hLen => ?_, fun hOpen hLen => ?_⟩
  · rw [exchangeBody_of_closed (s := accept 4#4 s) hOpen, raiseError_of_idle (s := accept 4#4 s) hp]
    rfl
  · rw [exchangeBody_of_opened (s := accept 4#4 s) hOpen, accept_txLen, if_pos hLen]
    rfl
  · rw [exchangeBody_of_opened (s := accept 4#4 s) hOpen, accept_txLen, if_neg hLen]
    rfl

end Sys2Proof.Machine
end

section
/-! The float register combiner, DECODE (42_register_decoder.md R210): its two ends from the accepted state, which
holds the REG_N and the REGVAL of the state before the write. -/

namespace Sys2Proof.Machine

/-- DECODE while IDLE runs from the accepted state (R32, R210). -/
theorem exec_decode_idle {s : State} (hp : s.phase = .idle) : exec .decode s = decodeBody (accept 6#4 s) :=
  issue_idle hp 6#4 decodeBody

/-- DECODE when the last PARSE did not leave two registers (R210). -/
theorem decodeBody_of_regN_ne {s : State} (hN : s.regN ≠ 2#8) :
    decodeBody s = .next (raiseError .wrongRegisterCount s) := by
  rw [decodeBody, if_pos hN]

/-- DECODE of the two registers that the last PARSE left (R210). -/
theorem decodeBody_of_regN_eq {s : State} (hN : s.regN = 2#8) :
    decodeBody s = .next (finish { s with floatResult := regVal s 0 ++ regVal s 1 }) := by
  rw [decodeBody, if_neg (not_not_intro hN)]

/-- An accepted command reads the REGVAL entries of the state before the write (R51: no draw is spent on it). -/
@[simp] theorem regVal_accept (op : BitVec 4) (s : State) (i : Nat) : regVal (accept op s) i = regVal s i := rfl

/-- Settles O19: the two ends of DECODE by REG_N, each from the accepted state, where no error is reported. -/
theorem decodeOutcome : Obligations.DecodeOutcome := by
  unfold Obligations.DecodeOutcome
  intro s hp
  rw [exec_decode_idle hp]
  refine ⟨fun hN => ?_, fun hN => ?_⟩
  · rw [decodeBody_of_regN_ne (s := accept 6#4 s) hN, raiseError_of_idle (s := accept 6#4 s) hp]
    rfl
  · rw [decodeBody_of_regN_eq (s := accept 6#4 s) hN, regVal_accept, regVal_accept,
      finish_of_idle (s := { accept 6#4 s with floatResult := regVal s 0 ++ regVal s 1 }) hp rfl rfl]
    rfl

end Sys2Proof.Machine
end

section
/-! XFER at its accept step (43_xfer.md R230): the checks of the session and of the address, then the request built and
the exchange started in one step. -/

namespace Sys2Proof.Machine

/-- XFER while IDLE runs from the accepted state (R32, R230). -/
theorem exec_xfer_idle {s : State} (hp : s.phase = .idle) : exec .xfer s = xferBody (accept 8#4 s) :=
  issue_idle hp 8#4 xferBody

/-- XFER without a session (R230). -/
theorem xferBody_of_closed {s : State} (hOpen : s.opened = false) : xferBody s = .next (raiseError .notOpen s) := by
  simp only [xferBody, hOpen, Bool.not_false, if_true]

/-- XFER in a session: the address decides between the refusal and the request being sent (R230). -/
theorem xferBody_of_opened {s : State} (hOpen : s.opened = true) :
    xferBody s = if addressOk s = true then .next { startExchange (buildRequest s) with phase := .tx }
      else .next (raiseError .invalidSlaveAddress s) := by
  cases ha : addressOk s <;>
    simp only [xferBody, hOpen, ha, Bool.not_true, Bool.not_false, Bool.false_eq_true, if_false, if_true]

/-- XFER while IDLE, in a session and with an address in range: the request stands in TXBUF and its sending starts
(R230). -/
theorem exec_xfer_of_addressOk {s : State} (hp : s.phase = .idle) (hOpen : s.opened = true)
    (ha : addressOk s = true) :
    exec .xfer s
      = .next { s with phase := .tx, done := false, err := false, lastOp := 8#4, errCode := 0#8, excCode := 0#8
                       txLen := 8#4, rxLen := 0#9, timer := 0#32, txIdx := 0
                       mem := writeTxBuf s.mem 0 (builtFrame s) } := by
  rw [exec_xfer_idle hp, xferBody_of_opened (s := accept 8#4 s) hOpen, if_pos (c := addressOk (accept 8#4 s) = true) ha]
  rfl

/-- The built request is its six body bytes with their CRC behind them, low byte first (R95, R98, R122). -/
theorem builtFrame_eq_withTrailer (s : State) :
    builtFrame s = Safety.withTrailer (requestBody s.slaveAddr s.startReg s.regCount) := rfl

/-- Settles O16: the two refusals from the accepted state, and the started exchange with TXBUF read back against the
request. -/
theorem xferAccept : Obligations.XferAccept := by
  unfold Obligations.XferAccept
  intro s hp
  rw [← addressOk_iff]
  refine ⟨fun hOpen => ?_, fun hOpen ha => ?_, fun hOpen ha =>
    ⟨_, exec_xfer_of_addressOk hp hOpen ha, rfl, fun k hk => ?_, fun a hOther => ?_⟩⟩
  · rw [exec_xfer_idle hp, xferBody_of_closed (s := accept 8#4 s) hOpen, raiseError_of_idle (s := accept 8#4 s) hp]
    rfl
  · rw [exec_xfer_idle hp, xferBody_of_opened (s := accept 8#4 s) hOpen,
      if_neg (c := addressOk (accept 8#4 s) = true) ha, raiseError_of_idle (s := accept 8#4 s) hp]
    rfl
  · exact (writeTxBuf_read_entry s.mem (bs := builtFrame s) hk).trans
      (congrArg (·[k]?) (builtFrame_eq_withTrailer s))
  · exact writeTxBuf_read_other s.mem (bs := builtFrame s) hOther

end Sys2Proof.Machine
end

section
/-! What a reset leaves in the registers and in the buffers, at power-up and after a Reset event
(70_reset_and_hazards.md R280). -/

namespace Sys2Proof.Machine

/-- A byte that nothing has written is read as a draw (R51). -/
theorem peek_of_unwritten {s : State} {a : Nat} (h : s.mem.read a = none) : peek s a = Config.freeByte s.draws a := by
  rw [peek, h, Option.getD_none]

/-- The Reset event has one outcome, the reset block (R280). -/
theorem handleEvent_reset (s : State) : handleEvent .reset s = .next (resetBlock (nextDraw s)) := rfl

/-- Power-up is a Reset of itself, so one description of `resetBlock` serves both (R280). -/
theorem resetBlock_reset : resetBlock State.reset = State.reset := rfl

/-- STATUS after a Reset is the word STATUS shows at power-up (R25, R280). -/
theorem statusWord_resetBlock (s : State) : statusWord (resetBlock s) = 0#32 := by
  obtain ⟨-, hPowerUp, -⟩ := statusWordFields
  exact hPowerUp

/-- ERROR holds no code after a Reset (R34, R280). -/
theorem errorWord_resetBlock (s : State) : errorWord (resetBlock s) = 0#32 := by
  rw [errorWord, resetBlock_excCode, resetBlock_errCode]
  rfl

/-- No buffer byte counts as written after a Reset, so each is read as a draw (R51, R280). -/
theorem peek_resetBlock (s : State) (a : Nat) : peek (resetBlock s) a = Config.freeByte s.draws a :=
  peek_of_unwritten (s := resetBlock s) (Memory.read_nil a)

/-- A state at power-up, or after a Reset event from a state with the block's parameter, is a reset block with that
parameter. -/
theorem eq_resetBlock_of_reset {t : State}
    (h : t = State.reset ∨ ∃ s : State, s.timeoutTicks = Config.tRespTicks ∧ handleEvent .reset s = .next t) :
    ∃ s : State, s.timeoutTicks = Config.tRespTicks ∧ t = resetBlock s := by
  rcases h with rfl | ⟨s, hTicks, hReset⟩
  · exact ⟨State.reset, reset_timeoutTicks, resetBlock_reset.symm⟩
  · rw [handleEvent_reset] at hReset
    cases hReset
    exact ⟨nextDraw s, hTicks, rfl⟩

/-- Settles O46: both states are reset blocks, whose fields are read off one by one. -/
theorem resetSetsEveryRegister : Obligations.ResetSetsEveryRegister := by
  unfold Obligations.ResetSetsEveryRegister
  intro t h
  obtain ⟨s, hTicks, rfl⟩ := eq_resetBlock_of_reset h
  obtain ⟨hLineCfg, -⟩ := lineConfigurationIsFixed
  exact ⟨resetBlock_phase s, resetBlock_txIdx s, statusWord_resetBlock s, errorWord_resetBlock s,
    resetBlock_slaveAddr s, resetBlock_startReg s, resetBlock_regCount s, hLineCfg,
    (resetBlock_timeoutTicks s).trans hTicks, resetBlock_timer s, resetBlock_txLen s, resetBlock_rxLen s,
    resetBlock_crcResult s, resetBlock_respHdr s, resetBlock_regN s, resetBlock_floatResult s, peek_resetBlock s⟩

end Sys2Proof.Machine
end

section
/-! Decoding and encoding are inverse to each other, on the command words and on the two directions of the line
(30_encoding.md R90 to R99). -/

namespace Sys2Proof

open Machine

/-! ### Decoding an encoded instruction -/

/-- A request frame decodes to its fields (R95, R98). -/
theorem decodeRequest_requestFrame (slave : Byte) (start count check : Half) :
    decodeRequest (requestFrame slave start count check) = .ok (.reqReadHolding slave start count check) := by
  simp [requestFrame, requestBody, decodeRequest]

/-- A normal response decodes to its fields when its payload is as long as its header says (R96). -/
theorem decodeResponse_responseFrame (slave : Byte) (func : BitVec 7) {byteCount : Byte} {payload : List Byte}
    (check : Half) (h : payload.length = byteCount.toNat) :
    decodeResponse (responseFrame slave func byteCount payload check)
      = .ok (.respReadHolding slave func byteCount payload check) := by
  obtain ⟨hBit, hFunc⟩ := normalFunction func
  have hBit' : ¬ (0#1 ++ func).getLsbD 7 = true := by rw [hBit]; exact Bool.false_ne_true
  unfold responseFrame decodeResponse
  dsimp only
  rw [if_neg hBit', List.drop_left' h, List.take_left' h, hFunc]
  simp only [joinBytes_hi_lo]

/-- An exception frame decodes to its fields (R97). -/
theorem decodeResponse_exceptionFrame (slave : Byte) (func : BitVec 7) (code : Byte) (check : Half) :
    decodeResponse (exceptionFrame slave func code check) = .ok (.respException slave func code check) := by
  obtain ⟨hBit, hFunc⟩ := exceptionFunction func
  rw [exceptionFrame, decodeResponse, if_pos hBit, hFunc]
  simp only [joinBytes_hi_lo]

/-- Settles O4: a command word decodes by computation, a frame by the lemma of its layout. -/
theorem decodeOfEncodeIsInstruction : Obligations.DecodeOfEncodeIsInstruction := by
  unfold Obligations.DecodeOfEncodeIsInstruction
  intro i hLengths
  cases i with
  | reqReadHolding slave start count check => exact decodeRequest_requestFrame slave start count check
  | respReadHolding slave func byteCount payload check =>
    exact decodeResponse_responseFrame slave func check (by simpa [Instr.lengthsAgree] using hLengths)
  | respException slave func code check => exact decodeResponse_exceptionFrame slave func code check
  | _ => rfl

/-! ### Encoding a decoded instruction -/

/-- The bytes of a request that decodes are the frame of its fields (R95). -/
theorem eq_requestFrame_of_decodeRequest {bytes : List Byte} {i : Instr} (h : decodeRequest bytes = .ok i) :
    ∃ slave start count check,
      i = .reqReadHolding slave start count check ∧ bytes = requestFrame slave start count check := by
  unfold decodeRequest at h
  split at h
  · next a f s₁ s₀ n₁ n₀ c₀ c₁ =>
    split at h
    · next hFunc =>
      cases h
      exact ⟨_, _, _, _, rfl, by simp [requestFrame, requestBody, hFunc]⟩
    · cases h
  · cases h

/-- The bytes of a response that decodes are the frame of its fields, normal or exception by bit 7 of byte 1, and a
normal one has as many payload bytes as its header says (R96, R97, R99). -/
theorem eq_frame_of_decodeResponse {bytes : List Byte} {i : Instr} (h : decodeResponse bytes = .ok i) :
    (∃ slave func byteCount payload check, i = .respReadHolding slave func byteCount payload check
        ∧ bytes = responseFrame slave func byteCount payload check ∧ payload.length = byteCount.toNat)
      ∨ ∃ slave func code check, i = .respException slave func code check
        ∧ bytes = exceptionFrame slave func code check := by
  unfold decodeResponse at h
  split at h
  · next a f b rest =>
    obtain ⟨hException, hNormal⟩ := functionByte f
    split at h
    · next hBit =>
      split at h
      · cases h
        exact .inr ⟨_, _, _, _, rfl, by rw [exceptionFrame, hException hBit, loByte_joinBytes, hiByte_joinBytes]⟩
      · cases h
    · next hBit =>
      split at h
      · next c₀ c₁ hDrop =>
        cases h
        have hLength : b.toNat ≤ rest.length := by
          have := congrArg List.length hDrop
          simp only [List.length_drop, List.length_cons, List.length_nil] at this
          omega
        refine .inl ⟨_, _, _, _, _, rfl, ?_, List.length_take_of_le hLength⟩
        rw [responseFrame, hNormal (Bool.eq_false_of_not_eq_true hBit), loByte_joinBytes, hiByte_joinBytes, ← hDrop,
          List.take_append_drop]
      · cases h
  · cases h

/-- Settles O5: the eight legal words one by one, the frames by their layouts. -/
theorem encodeOfDecodeIsCode : Obligations.EncodeOfDecodeIsCode := by
  unfold Obligations.EncodeOfDecodeIsCode
  intro c i h
  match c with
  | .command w =>
    rcases decodeCommand_ok h with
      ⟨rfl, rfl⟩ | ⟨rfl, rfl⟩ | ⟨rfl, rfl⟩ | ⟨rfl, rfl⟩ | ⟨rfl, rfl⟩ | ⟨rfl, rfl⟩ | ⟨rfl, rfl⟩ | ⟨rfl, rfl⟩ <;>
      exact ⟨rfl, rfl⟩
  | .frame .request bytes =>
    obtain ⟨slave, start, count, check, rfl, rfl⟩ := eq_requestFrame_of_decodeRequest h
    exact ⟨rfl, rfl⟩
  | .frame .response bytes =>
    rcases eq_frame_of_decodeResponse h with
      ⟨slave, func, byteCount, payload, check, rfl, rfl, hLength⟩ | ⟨slave, func, code, check, rfl, rfl⟩
    · exact ⟨rfl, by simp [Instr.lengthsAgree, hLength]⟩
    · exact ⟨rfl, rfl⟩

/-! ### Worked encodings -/

/-- Settles O6: each frame is the encoding of the instruction it stands for, so it decodes to it. -/
theorem writtenOutEncodingsDecode : Obligations.WrittenOutEncodingsDecode := by
  unfold Obligations.WrittenOutEncodingsDecode
  exact ⟨rfl, rfl, decodeRequest_requestFrame 0x19#8 0x000E#16 0x0102#16 0x10A6#16,
    decodeResponse_responseFrame 0x19#8 3#7 (byteCount := 0x02#8) (payload := [0x12#8, 0x34#8]) 0x3195#16 rfl,
    decodeResponse_exceptionFrame 0x19#8 3#7 0x02#8 0xF640#16⟩

end Sys2Proof
end

section
/-! The invariant of the block: what each operation needs of it and leaves of it, and that every step from a state of
the invariant answers a next state of the invariant (10_state.md R21 to R51; 41_transport.md R164 to R175; 43_xfer.md
R230 to R233). -/

namespace Sys2Proof.Machine

open Safety

/-! ### The clauses of the invariant by the phases they speak of -/

/-- The storage holds bytes of the buffers alone, in canonical form. -/
structure StorageOk (m : Memory) : Prop where
  wf : m.wf = true
  mapped : ∀ c ∈ m, storageOffset c.1

/-- The clauses that speak of every phase and of no report. -/
structure Kept (s : State) : Prop where
  storage : StorageOk s.mem
  rxLenMax : s.rxLen.toNat ≤ rxBufSize
  regNMax : s.regN.toNat ≤ 127
  txLenBuilt : s.txLen = 0#4 ∨ s.txLen = 8#4
  txBuilt : s.txLen = 8#4 → ∀ i, i < 8 → (s.mem.read (txAddr i)).isSome = true
  txIdxMax : s.txIdx ≤ s.txLen.toNat
  timeoutPositive : s.timeoutTicks ≠ 0#32
  timerMax : s.timer.toNat ≤ s.timeoutTicks.toNat
  sessionAddress : s.opened = true → slaveInRange s.slaveAddr = true

/-- What is reported while IDLE. -/
structure Reported (s : State) : Prop where
  ended : (s.done = true ∧ s.err = decide (s.errCode ≠ 0#8))
    ∨ (s.done = false ∧ s.err = false ∧ s.errCode = 0#8 ∧ s.excCode = 0#8 ∧ s.lastOp = 0#4)
  excOnly : s.excCode ≠ 0#8 → s.errCode = 0x12#8
  errProduced : s.errCode ∈ producedCodes

/-- What holds while an exchange runs. -/
structure Running (s : State) : Prop where
  timerRuns : s.timer.toNat < s.timeoutTicks.toNat
  opened : s.opened = true
  unreported : s.done = false ∧ s.err = false ∧ s.errCode = 0#8 ∧ s.excCode = 0#8
  command : s.lastOp = 4#4 ∨ s.lastOp = 8#4
  sentInOrder : ∃ before, s.wireOut = before ++ (List.range s.txIdx).map (txBuf s)
  sending : s.phase = .tx → s.txIdx < s.txLen.toNat ∧ s.rxLen = 0#9
  sent : s.phase = .rx → s.txIdx = s.txLen.toNat
  rxWritten : s.phase = .rx → ∀ i, i < s.rxLen.toNat → (s.mem.read (rxAddr i)).isSome = true
  rxIncomplete : s.phase = .rx → s.rxLen.toNat < frameLimit s

theorem blockInv_kept {s : State} (h : BlockInv s) : Kept s :=
  { h with storage := ⟨h.memWf, h.memMapped⟩ }

theorem blockInv_reported {s : State} (h : BlockInv s) (hp : s.phase = .idle) : Reported s :=
  ⟨h.idleReported hp, h.excOnly, h.errProduced⟩

theorem blockInv_running {s : State} (h : BlockInv s) (hp : s.phase ≠ .idle) : Running s where
  timerRuns := h.timerRuns hp
  opened := h.busyOpened hp
  unreported := h.busyUnreported hp
  command := h.busyCommand hp
  sentInOrder := h.sentInOrder hp
  sending := fun htx => ⟨h.txPhase htx, h.txNothingReceived htx⟩
  sent := h.rxPhase
  rxWritten := h.rxWritten
  rxIncomplete := h.rxIncomplete

/-- While IDLE the clauses on a running exchange say nothing. -/
theorem blockInv_of_idle {s : State} (hp : s.phase = .idle) (hk : Kept s) (hr : Reported s) : BlockInv s where
  memWf := hk.storage.wf
  memMapped := hk.storage.mapped
  rxLenMax := hk.rxLenMax
  regNMax := hk.regNMax
  txLenBuilt := hk.txLenBuilt
  txBuilt := hk.txBuilt
  txIdxMax := hk.txIdxMax
  timeoutPositive := hk.timeoutPositive
  timerMax := hk.timerMax
  sessionAddress := hk.sessionAddress
  idleReported := fun _ => hr.ended
  excOnly := hr.excOnly
  errProduced := hr.errProduced
  txPhase := by simp [hp]
  rxPhase := by simp [hp]
  sentInOrder := by simp [hp]
  timerRuns := by simp [hp]
  busyOpened := by simp [hp]
  busyUnreported := by simp [hp]
  busyCommand := by simp [hp]
  txNothingReceived := by simp [hp]
  rxWritten := by simp [hp]
  rxIncomplete := by simp [hp]

/-- While BUSY nothing is reported, which meets the clauses on the report (R72). -/
theorem blockInv_of_busy {s : State} (hp : s.phase ≠ .idle) (hk : Kept s) (hr : Running s) : BlockInv s := by
  obtain ⟨-, -, hCode, hExc⟩ := hr.unreported
  exact {
    memWf := hk.storage.wf
    memMapped := hk.storage.mapped
    rxLenMax := hk.rxLenMax
    regNMax := hk.regNMax
    txLenBuilt := hk.txLenBuilt
    txBuilt := hk.txBuilt
    txIdxMax := hk.txIdxMax
    timeoutPositive := hk.timeoutPositive
    timerMax := hk.timerMax
    sessionAddress := hk.sessionAddress
    idleReported := fun h => absurd h hp
    excOnly := fun h => absurd hExc h
    errProduced := by rw [hCode]; decide
    txPhase := fun h => (hr.sending h).1
    rxPhase := hr.sent
    sentInOrder := fun _ => hr.sentInOrder
    timerRuns := fun _ => hr.timerRuns
    busyOpened := fun _ => hr.opened
    busyUnreported := fun _ => hr.unreported
    busyCommand := fun _ => hr.command
    txNothingReceived := fun h => (hr.sending h).2
    rxWritten := hr.rxWritten
    rxIncomplete := hr.rxIncomplete }

/-! ### What the invariant does not look at -/

/-- The state with the fields cleared that the invariant does not speak of. Buffer bytes that nothing has written are
draws; the invariant reads none of them. -/
def bare (s : State) : State :=
  { s with
    cmdRej := false, startReg := 0#16, regCount := 0#16, crcResult := 0#16, respHdr := 0#24, floatResult := 0#32
    bus := ⟨false, 0#32⟩, input := [], phyLevel := none, draws := 0 }

/-- A byte that has been written is read the same whatever the draws (R51). -/
theorem peek_eq_of_written {s t : State} {a : Nat} (hm : t.mem.read a = s.mem.read a)
    (hw : (s.mem.read a).isSome = true) : peek t a = peek s a := by
  obtain ⟨b, hb⟩ := Option.isSome_iff_exists.1 hw
  rw [peek_of_read hb, peek_of_read (hm.trans hb)]

/-- The limit of a frame is told by the bytes received (R169). -/
theorem frameLimit_congr {s t : State} (hl : t.rxLen = s.rxLen)
    (hb : ∀ i, i < s.rxLen.toNat → rxBuf t i = rxBuf s i) : frameLimit t = frameLimit s := by
  unfold frameLimit
  rw [hl]
  split
  · rfl
  · rw [hb 1 (by omega)]
    split
    · rfl
    · split
      · rfl
      · rw [hb 2 (by omega)]

/-- The bytes of TXBUF that are sent have been written (R51, R165). -/
theorem Kept.txWritten {s : State} (h : Kept s) {i : Nat} (hi : i < s.txIdx) :
    i < 8 ∧ (s.mem.read (txAddr i)).isSome = true := by
  have hMax := h.txIdxMax
  rcases h.txLenBuilt with hl | hl <;> rw [hl] at hMax
  · exact absurd (Nat.lt_of_lt_of_le hi hMax) (Nat.not_lt_zero i)
  · exact ⟨Nat.lt_of_lt_of_le hi hMax, h.txBuilt hl i (Nat.lt_of_lt_of_le hi hMax)⟩

/-- States that agree on every field the invariant speaks of meet it together. -/
theorem blockInv_congr {s t : State} (h : BlockInv s) (e : bare t = bare s) : BlockInv t := by
  have hPeek : ∀ a, (s.mem.read a).isSome = true → peek t a = peek s a :=
    fun a ha => peek_eq_of_written (congrArg (·.mem.read a) e) ha
  have hSent : (List.range s.txIdx).map (txBuf t) = (List.range s.txIdx).map (txBuf s) :=
    List.map_congr_left fun i hi => hPeek _ ((blockInv_kept h).txWritten (List.mem_range.1 hi)).2
  have hLimit : s.phase = .rx → frameLimit t = frameLimit s :=
    fun hp => frameLimit_congr (congrArg (·.rxLen) e :) fun i hi => hPeek _ (h.rxWritten hp i hi)
  cases s
  cases t
  simp only [bare, State.mk.injEq, true_and] at e
  obtain ⟨rfl, rfl, rfl, rfl, rfl, rfl, rfl, rfl, rfl, rfl, rfl, rfl, rfl, rfl, rfl, rfl⟩ := e
  exact { h with
    sentInOrder := fun hp => by rw [hSent]; exact h.sentInOrder hp
    rxIncomplete := fun hp => by rw [hLimit hp]; exact h.rxIncomplete hp }

/-- An operation answers a next state, and one that meets the invariant. -/
def Completes (r : Result) : Prop := ∃ t, r = .next t ∧ BlockInv t

/-! ### The storage -/

/-- A write into a buffer keeps the storage. -/
theorem StorageOk.write {m : Memory} (h : StorageOk m) {a : Nat} (ha : storageOffset a) (b : Byte) :
    StorageOk (m.write a b) where
  wf := Memory.wf_write m a b h.wf
  mapped := by
    intro c hc
    rcases Memory.mem_write m a b c hc with rfl | hc
    · exact ha
    · exact h.mapped c hc

theorem storageOffset_rx {i : Nat} (h : i < rxBufSize) : storageOffset (rxAddr i) := .inr (.inr ⟨i, h, rfl⟩)

theorem StorageOk.writeRegVal {m : Memory} (h : StorageOk m) {i : Nat} (hi : i < 127) (v : Half) :
    StorageOk (writeRegVal m i v) :=
  (h.write (.inr (.inl ⟨i, hi, .inl rfl⟩)) _).write (.inr (.inl ⟨i, hi, .inr rfl⟩)) _

theorem StorageOk.writeRegVals {m : Memory} (h : StorageOk m) (vs : List Half) {i : Nat} (hi : i + vs.length ≤ 127) :
    StorageOk (writeRegVals m i vs) := by
  induction vs generalizing m i with
  | nil => exact h
  | cons v vs ih =>
    rw [List.length_cons] at hi
    exact ih (h.writeRegVal (by omega) v) (by omega)

theorem StorageOk.writeTxBuf {m : Memory} (h : StorageOk m) (bs : List Byte) {i : Nat} (hi : i + bs.length ≤ 8) :
    StorageOk (writeTxBuf m i bs) := by
  induction bs generalizing m i with
  | nil => exact h
  | cons b bs ih =>
    rw [List.length_cons] at hi
    exact ih (h.write (.inl ⟨i, by omega, rfl⟩) b) (by omega)

/-- A byte written stays written. -/
theorem isSome_read_write {m : Memory} {a : Nat} (h : (m.read a).isSome = true) (k : Nat) (b : Byte) :
    ((m.write k b).read a).isSome = true := by
  rw [Memory.read_write]
  split
  · rfl
  · exact h

/-- A write into RXBUF keeps the clauses of every phase (R45). -/
theorem Kept.writeRxBuf {s : State} (h : Kept s) {i : Nat} (hi : i < rxBufSize) (b : Byte) :
    Kept { s with mem := s.mem.write (rxAddr i) b } :=
  { h with
    storage := h.storage.write (storageOffset_rx hi) b
    txBuilt := fun hl j hj => isSome_read_write (h.txBuilt hl j hj) _ b }

/-- TXBUF and REGVAL do not overlap. -/
theorem txAddr_ne_regValAddr {i : Nat} (hi : i < 8) (j : Nat) :
    txAddr i ≠ regValAddr j ∧ txAddr i ≠ regValAddr j + 1 := by
  unfold txAddr regValAddr
  omega

/-- TXBUF and RXBUF do not overlap. -/
theorem txAddr_ne_rxAddr {i : Nat} (hi : i < 8) (j : Nat) : txAddr i ≠ rxAddr j := by
  unfold txAddr rxAddr
  omega

/-- REGVAL written from its first entry on keeps the clauses of every phase (R46, R50). -/
theorem Kept.writeRegVals {s : State} (h : Kept s) {vs : List Half} (hvs : vs.length ≤ 127) :
    Kept { s with mem := writeRegVals s.mem 0 vs } :=
  { h with
    storage := h.storage.writeRegVals vs (by omega)
    txBuilt := fun hl i hi => by
      rw [writeRegVals_read_other vs s.mem 0 _ fun j _ => txAddr_ne_regValAddr hi (0 + j)]
      exact h.txBuilt hl i hi }

/-- One REGVAL entry written keeps the clauses of every phase. -/
theorem Kept.writeRegVal {s : State} (h : Kept s) {i : Nat} (hi : i < 127) (v : Half) :
    Kept { s with mem := Machine.writeRegVal s.mem i v } :=
  { h with
    storage := h.storage.writeRegVal hi v
    txBuilt := fun hl j hj => isSome_read_write (isSome_read_write (h.txBuilt hl j hj) _ _) _ _ }

/-- The build step keeps the clauses of every phase: all of TXBUF is written (R51, R122). -/
theorem Kept.buildRequest {s : State} (h : Kept s) : Kept (buildRequest s) :=
  { h with
    storage := h.storage.writeTxBuf (builtFrame s) (show 0 + 8 ≤ 8 by decide)
    txLenBuilt := .inr rfl
    txBuilt := fun _ i hi => by
      rw [buildRequest_mem, writeTxBuf_read_entry s.mem (bs := builtFrame s) hi]
      rw [List.getElem?_eq_getElem (show i < (builtFrame s).length from hi)]
      rfl
    txIdxMax := by
      have hMax := h.txIdxMax
      rcases h.txLenBuilt with hl | hl <;> rw [hl] at hMax
      · exact hMax.trans (Nat.zero_le _)
      · exact hMax }

theorem Kept.accept {s : State} (h : Kept s) (op : BitVec 4) : Kept (accept op s) := { h with }

/-! ### How a command ends -/

/-- `finish` with a code that the block produces (R31). -/
theorem blockInv_finish {s : State} (h : Kept s) (hExc : s.excCode ≠ 0#8 → s.errCode = 0x12#8)
    (hCode : s.errCode ∈ producedCodes) : BlockInv (finish s) :=
  blockInv_of_idle rfl { h with } ⟨.inl ⟨rfl, rfl⟩, hExc, hCode⟩

/-- `finish` with nothing reported (R31). -/
theorem blockInv_finish_of_noError {s : State} (h : Kept s) (hCode : s.errCode = 0#8) (hExc : s.excCode = 0#8) :
    BlockInv (finish s) :=
  blockInv_finish h (fun hne => absurd hExc hne) (by rw [hCode]; decide)

theorem codeNumber_mem_producedCodes (e : ErrorCode) : codeNumber e ∈ producedCodes := by
  cases e <;> simp [codeNumber, producedCodes]

/-- `raise` writes EXC_CODE with EXCEPTION_RESPONSE alone (R12, R34). -/
theorem codeNumber_of_excAfter {e : ErrorCode} (h : excAfter e 0#8 ≠ 0#8) : codeNumber e = 0x12#8 := by
  cases e with
  | exceptionResponse code => rfl
  | _ => exact absurd rfl h

/-- `raise` with nothing reported before (R12, R256). -/
theorem blockInv_raiseError {s : State} (h : Kept s) (hExc : s.excCode = 0#8) (e : ErrorCode) :
    BlockInv (raiseError e s) := by
  refine blockInv_finish (s := { s with errCode := codeNumber e, excCode := excAfter e s.excCode }) { h with } ?_
    (codeNumber_mem_producedCodes e)
  rw [hExc]
  exact codeNumber_of_excAfter

/-- The two ways PARSE ends: a failed check, or REG_COUNT registers delivered, at most 127 as byte 2 counts their
bytes; CRC_RESULT may have been written before (R124, R127). -/
theorem parseBody_ends {s : State} (hLen : s.rxLen.toNat ≤ rxBufSize) :
    ∃ crc, (∃ e, parseBody s = .next (parseFail e { s with crcResult := crc }))
      ∨ (s.regCount.toNat ≤ 127 ∧ parseBody s = .next (parseAccept { s with crcResult := crc })) := by
  rcases parseBody_cases s with ⟨-, e⟩ | ⟨h, -⟩ | ⟨-, -, -, e⟩ | ⟨-, -, -, e⟩
  · exact ⟨s.crcResult, .inl ⟨_, e⟩⟩
  · exact absurd hLen (Nat.not_le.2 h)
  · exact ⟨_, .inl ⟨_, e⟩⟩
  · refine ⟨crc16 (rxFrame s (s.rxLen.toNat - 2)), ?_⟩
    rcases parseHeader_cases s.rxLen.toNat (withCrcResult s) with
      ⟨-, eh⟩ | ⟨-, -, eh⟩ | ⟨-, -, -, eh⟩ | ⟨-, -, -, -, eh⟩ | ⟨-, -, hCount, -, eh⟩ <;> rw [eh] at e
    · exact .inl ⟨_, e⟩
    · exact .inl ⟨_, e⟩
    · exact .inl ⟨_, e⟩
    · exact .inl ⟨_, e⟩
    · have hByte := (rxBuf (withCrcResult s) 2).isLt
      have hTwice : (rxBuf (withCrcResult s) 2).toNat = 2 * s.regCount.toNat := hCount
      exact .inr ⟨by omega, e⟩

/-- PARSE with nothing reported before ends in the invariant, as a command or at the end of an XFER (R124, R231). -/
theorem completes_parseBody {s : State} (h : Kept s) (hCode : s.errCode = 0#8) (hExc : s.excCode = 0#8) :
    Completes (parseBody s) := by
  obtain ⟨crc, ⟨e, hEnd⟩ | ⟨hCount, hEnd⟩⟩ := parseBody_ends h.rxLenMax
  · exact ⟨_, hEnd, blockInv_raiseError (s := { s with crcResult := crc, regN := 0#8 })
      { h with regNMax := Nat.zero_le _ } hExc e⟩
  · have hLength : ((List.range s.regCount.toNat).map (responseReg { s with crcResult := crc })).length ≤ 127 := by
      rw [List.length_map, List.length_range]
      exact hCount
    have hStored := h.writeRegVals hLength
    have hRegN : (s.regCount.extractLsb' 0 8).toNat ≤ 127 := by
      rw [BitVec.extractLsb'_toNat, Nat.shiftRight_zero]
      omega
    refine ⟨_, hEnd, blockInv_finish_of_noError ?_ hCode hExc⟩
    exact { hStored with regNMax := hRegN }

/-! ### The commands -/

/-- EXCHANGE and XFER start from a state with the session open, nothing reported and the command recorded: nothing is
sent or received yet, and the window is new (R164, R230). -/
theorem blockInv_startExchange {s : State} (h : Kept s) (hOpen : s.opened = true)
    (hReport : s.done = false ∧ s.err = false ∧ s.errCode = 0#8 ∧ s.excCode = 0#8)
    (hOp : s.lastOp = 4#4 ∨ s.lastOp = 8#4) {p : Phase}
    (hp : (p = .rx ∧ s.txLen = 0#4) ∨ (p = .tx ∧ s.txLen = 8#4)) :
    BlockInv { startExchange s with phase := p } := by
  have hTicks : 0 < s.timeoutTicks.toNat := Nat.pos_of_ne_zero fun h0 =>
    h.timeoutPositive (BitVec.eq_of_toNat_eq h0)
  have hRest : Kept { startExchange s with phase := p } :=
    { h with rxLenMax := Nat.zero_le _, txIdxMax := Nat.zero_le _, timerMax := Nat.zero_le _ }
  refine blockInv_of_busy ?_ hRest {
    timerRuns := hTicks
    opened := hOpen
    unreported := hReport
    command := hOp
    sentInOrder := ⟨s.wireOut, (List.append_nil _).symm⟩
    sending := fun htx => ⟨?_, rfl⟩
    sent := fun hrx => ?_
    rxWritten := fun _ i hi => absurd hi (Nat.not_lt_zero i)
    rxIncomplete := fun _ => (by decide : 0 < rxBufSize) }
  · rcases hp with ⟨rfl, -⟩ | ⟨rfl, -⟩ <;> exact Phase.noConfusion
  · rcases hp with ⟨rfl, -⟩ | ⟨rfl, hl⟩
    · cases htx
    · exact (by rw [hl]; decide : 0 < s.txLen.toNat)
  · rcases hp with ⟨rfl, hl⟩ | ⟨rfl, -⟩
    · exact (by rw [hl]; rfl : 0 = s.txLen.toNat)
    · cases hrx

/-- Every command's rule answers a state of the invariant, from the state its word is accepted in. -/
theorem CommandRule.completes {w : Word} {body : State → Result} (hr : CommandRule w body) {s : State}
    (hs : BlockInv s) : Completes (body (Machine.accept (opField w) s)) := by
  have h : Kept (Machine.accept (opField w) s) := (blockInv_kept hs).accept _
  generalize hu : Machine.accept (opField w) s = u at h
  have hReport : u.done = false ∧ u.err = false ∧ u.errCode = 0#8 ∧ u.excCode = 0#8 := by
    rw [← hu]
    exact ⟨rfl, rfl, rfl, rfl⟩
  have ⟨_, _, hCode, hExc⟩ := hReport
  have hOp : u.lastOp = opField w := by rw [← hu]; rfl
  cases hr with
  | openPort =>
    have hu' : Kept (samplePhy u) := { h with }
    rcases openBody_cases (phyPresentNow u) (samplePhy u) with ⟨-, e⟩ | ⟨-, -, e⟩ | ⟨-, -, -, e⟩ | ⟨-, ha, -, e⟩
    · exact ⟨_, e, blockInv_finish_of_noError hu' hCode hExc⟩
    · exact ⟨_, e, blockInv_raiseError hu' hExc _⟩
    · exact ⟨_, e, blockInv_raiseError hu' hExc _⟩
    · exact ⟨_, e, blockInv_finish_of_noError { hu' with sessionAddress := fun _ => ha } hCode hExc⟩
  | closePort =>
    exact ⟨_, rfl, blockInv_finish_of_noError (s := { u with opened := false })
      { h with sessionAddress := fun ho => Bool.noConfusion ho } hCode hExc⟩
  | build =>
    rcases buildBody_cases u with ⟨-, e⟩ | ⟨-, e⟩
    · exact ⟨_, e, blockInv_raiseError h hExc _⟩
    · exact ⟨_, e, blockInv_finish_of_noError h.buildRequest hCode hExc⟩
  | exchange =>
    rcases exchangeBody_cases u with ⟨-, e⟩ | ⟨ho, hl, e⟩ | ⟨ho, hl, e⟩
    · exact ⟨_, e, blockInv_raiseError h hExc _⟩
    · exact ⟨_, e, blockInv_startExchange h ho hReport (.inl hOp) (.inl ⟨rfl, hl⟩)⟩
    · exact ⟨_, e, blockInv_startExchange h ho hReport (.inl hOp) (.inr ⟨rfl, h.txLenBuilt.resolve_left hl⟩)⟩
  | parse => exact completes_parseBody h hCode hExc
  | decode =>
    rcases decodeBody_cases u with ⟨-, e⟩ | ⟨-, e⟩
    · exact ⟨_, e, blockInv_raiseError h hExc _⟩
    · exact ⟨_, e, blockInv_finish_of_noError { h with } hCode hExc⟩
  | crc => exact ⟨_, crcBody_of_le h.rxLenMax, blockInv_finish_of_noError { h with } hCode hExc⟩
  | xfer =>
    rcases xferBody_cases u with ⟨-, e⟩ | ⟨-, -, e⟩ | ⟨ho, -, e⟩
    · exact ⟨_, e, blockInv_raiseError h hExc _⟩
    · exact ⟨_, e, blockInv_raiseError h hExc _⟩
    · exact ⟨_, e, blockInv_startExchange h.buildRequest ho hReport (.inr hOp) (.inr ⟨rfl, rfl⟩)⟩
  | illegal _ => exact ⟨_, rfl, blockInv_raiseError h hExc _⟩

theorem completes_runCommand {s : State} (h : BlockInv s) (w : Word) : Completes (runCommand w s) := by
  obtain ⟨body, hr, hrun⟩ := exists_commandRule w
  rw [hrun]
  by_cases hp : s.phase = .idle
  · rw [issue_idle hp]
    exact hr.completes h
  · rw [issue_busy hp]
    exact ⟨_, rfl, blockInv_congr h rfl⟩

/-! ### The events of an exchange -/

theorem completes_txAccept {s : State} (h : BlockInv s) : Completes (txAccept s) := by
  rcases txAccept_cases s with ⟨-, e⟩ | ⟨hp, hlt, e⟩ | ⟨hp, hle, -⟩
  · exact ⟨_, e, h⟩
  · refine ⟨_, e, ?_⟩
    have hBusy : s.phase ≠ .idle := by rw [hp]; exact Phase.noConfusion
    have hr := blockInv_running h hBusy
    have hRx : s.rxLen = 0#9 := (hr.sending hp).2
    obtain ⟨before, hBefore⟩ := hr.sentInOrder
    refine blockInv_of_busy ?_ { blockInv_kept h with txIdxMax := hlt } { hr with
      sentInOrder := ⟨before, ?_⟩
      sending := fun htx => ⟨?_, hRx⟩
      sent := fun hrx => ?_
      rxWritten := fun _ i hi => ?_
      rxIncomplete := fun _ => ?_ }
    · rw [sendByte_phase, hp]
      split <;> exact Phase.noConfusion
    · rw [sendByte_wireOut, hBefore, List.append_assoc, sendByte_txIdx, List.range_succ, List.map_append]
      rfl
    · rw [sendByte_phase] at htx
      split at htx
      · cases htx
      · next hne => exact Nat.lt_of_le_of_ne hlt hne
    · rw [sendByte_phase, hp] at hrx
      split at hrx
      · next heq => exact heq
      · cases hrx
    · rw [sendByte_rxLen, hRx] at hi
      exact absurd hi (Nat.not_lt_zero i)
    · have hNone : (sendByte s).rxLen.toNat = 0 := by rw [sendByte_rxLen, hRx]; rfl
      rw [frameLimit, hNone, if_pos (by decide)]
      decide
  · exact absurd (h.txPhase hp) (Nat.not_lt.2 hle)

theorem completes_txError {s : State} (h : BlockInv s) : Completes (txError s) := by
  rcases txError_cases s with ⟨-, e⟩ | ⟨hp, e⟩
  · exact ⟨_, e, h⟩
  · obtain ⟨-, -, -, hExc⟩ := h.busyUnreported (by rw [hp]; exact Phase.noConfusion)
    exact ⟨_, e, blockInv_raiseError (blockInv_kept h) hExc _⟩

/-- A byte that completes no frame leaves the frame below its limit (R168, R169). -/
theorem lt_frameLimit_of_not_complete {s t : State} {n : Nat} (hs : s.rxLen.toNat = n) (ht : t.rxLen.toNat = n + 1)
    (hSame : ∀ i, i < n → rxBuf t i = rxBuf s i) (hLimit : n < frameLimit s) (hc : frameComplete t (n + 1) = false) :
    n + 1 < frameLimit t := by
  have hc' := mt (frameComplete_iff t (n + 1)).2 (Bool.eq_false_iff.1 hc)
  unfold frameLimit rxBufSize at *
  rw [hs] at hLimit
  rw [ht]
  by_cases h₁ : n < 2
  · cases hBit : (rxBuf t 1).getLsbD 7 <;> simp only [Bool.false_eq_true, if_false, if_true] <;> split_ifs <;> omega
  · rw [if_neg h₁, ← hSame 1 (by omega)] at hLimit
    cases hBit : (rxBuf t 1).getLsbD 7
    · simp only [hBit, Bool.false_eq_true, false_and, and_false, false_or, true_and] at hc' hLimit
      by_cases h₂ : n < 3
      · simp only [Bool.false_eq_true, if_false]
        split_ifs <;> omega
      · rw [← hSame 2 (by omega)] at hLimit
        simp only [Bool.false_eq_true, if_false] at hLimit ⊢
        split_ifs at * <;> omega
    · simp only [hBit, if_true, true_and, Bool.true_eq_false, false_and, and_false, or_false] at hc' hLimit
      rw [if_neg (by omega), if_pos rfl]
      omega

/-- RXBUF after a byte is stored: that byte at RXBUF[RX_LEN], every other entry as before (R168). -/
theorem rxBuf_storeRxByte_other {s : State} {i : Nat} (hi : i ≠ s.rxLen.toNat) (b : Byte) :
    rxBuf (storeRxByte b s) i = rxBuf s i :=
  peek_congr (Memory.read_write_other s.mem b (rxAddr_ne i s.rxLen.toNat hi)) rfl

/-- A byte stored keeps the clauses of every phase (R42, R45). -/
theorem Kept.storeRxByte {s : State} (h : Kept s) (hRoom : s.rxLen.toNat < rxBufSize) (b : Byte) :
    Kept (storeRxByte b s) :=
  { h.writeRxBuf hRoom b with rxLenMax := by rw [storeRxByte_len b hRoom]; exact hRoom }

/-- The frame being received has room in RXBUF: no frame is longer than 260 bytes (R45, R169). -/
theorem frameLimit_le (s : State) : frameLimit s ≤ rxBufSize := by
  have hByte := (rxBuf s 2).isLt
  unfold frameLimit rxBufSize
  split_ifs <;> omega

/-- A byte that completes no frame keeps the invariant (R168). -/
theorem blockInv_storeRxByte {s : State} (h : BlockInv s) (hp : s.phase = .rx) (hRoom : s.rxLen.toNat < rxBufSize)
    {b : Byte} (hc : frameComplete (storeRxByte b s) (storeRxByte b s).rxLen.toNat = false) :
    BlockInv (storeRxByte b s) := by
  have hBusy : s.phase ≠ .idle := by rw [hp]; exact Phase.noConfusion
  have hr := blockInv_running h hBusy
  have hLen := storeRxByte_len b hRoom
  obtain ⟨before, hBefore⟩ := hr.sentInOrder
  refine blockInv_of_busy hBusy ((blockInv_kept h).storeRxByte hRoom b) { hr with
    sentInOrder := ⟨before, ?_⟩
    sending := fun htx => ?_
    rxWritten := fun _ i hi => ?_
    rxIncomplete := fun _ => ?_ }
  · rw [storeRxByte_wireOut, hBefore, storeRxByte_txIdx]
    refine congrArg (before ++ ·) (List.map_congr_left fun i hi => ?_)
    have hi8 := ((blockInv_kept h).txWritten (List.mem_range.1 hi)).1
    exact peek_congr (Memory.read_write_other s.mem b (txAddr_ne_rxAddr hi8 _)).symm rfl
  · rw [storeRxByte_phase, hp] at htx
    cases htx
  · rw [hLen] at hi
    by_cases heq : i = s.rxLen.toNat
    · rw [heq, storeRxByte_mem, Memory.read_write_same]
      rfl
    · exact isSome_read_write (h.rxWritten hp i (by omega)) _ b
  · rw [hLen] at hc ⊢
    exact lt_frameLimit_of_not_complete rfl hLen (fun i hi => rxBuf_storeRxByte_other (by omega) b)
      (h.rxIncomplete hp) hc

theorem completes_rxByte {s : State} (h : BlockInv s) (b : Byte) (err : Bool) : Completes (rxByte b err s) := by
  have hk := blockInv_kept h
  have hUnreported : s.phase = .rx → s.errCode = 0#8 ∧ s.excCode = 0#8 := by
    intro hp
    obtain ⟨-, -, hCode, hExc⟩ := h.busyUnreported (by rw [hp]; exact Phase.noConfusion)
    exact ⟨hCode, hExc⟩
  rcases rxByte_cases b err s with ⟨-, e⟩ | ⟨hp, -, e⟩ | ⟨hp, -, hFull, -⟩ | ⟨hp, -, hRoom, hc, e⟩
      | ⟨hp, -, hRoom, -, e⟩
  · exact ⟨_, e, h⟩
  · exact ⟨_, e, blockInv_raiseError hk (hUnreported hp).2 _⟩
  · exact absurd (Nat.lt_of_lt_of_le (h.rxIncomplete hp) (frameLimit_le s)) (Nat.not_lt.2 hFull)
  · exact ⟨_, e, blockInv_storeRxByte h hp hRoom hc⟩
  · obtain ⟨hCode, hExc⟩ := hUnreported hp
    rw [e, frameDone]
    split
    · exact completes_parseBody (hk.storeRxByte hRoom b) hCode hExc
    · exact ⟨_, rfl, blockInv_finish_of_noError (hk.storeRxByte hRoom b) hCode hExc⟩

/-- A Tick below the window's end counts without wrapping (R40, R172). -/
theorem toNat_timer_succ {s : State} (h : s.timer.toNat < s.timeoutTicks.toNat) :
    (s.timer + 1#32).toNat = s.timer.toNat + 1 := by
  have hMax := s.timeoutTicks.isLt
  rw [BitVec.toNat_add_of_lt (by simp only [BitVec.toNat_ofNat]; omega)]
  rfl

theorem completes_tick {s : State} (h : BlockInv s) : Completes (tick s) := by
  have hk := blockInv_kept h
  rcases tick_cases s with ⟨-, e⟩ | ⟨hp, -, e⟩ | ⟨hp, hne, e⟩
  · exact ⟨_, e, h⟩
  · obtain ⟨-, -, -, hExc⟩ := h.busyUnreported hp
    have hMax : (s.timer + 1#32).toNat ≤ s.timeoutTicks.toNat :=
      (toNat_timer_succ (h.timerRuns hp)).trans_le (h.timerRuns hp)
    exact ⟨_, e, blockInv_raiseError (s := { s with timer := s.timer + 1#32 }) { hk with timerMax := hMax } hExc _⟩
  · have hSucc := toNat_timer_succ (h.timerRuns hp)
    have hRuns : (s.timer + 1#32).toNat < s.timeoutTicks.toNat := by
      have : (s.timer + 1#32).toNat ≠ s.timeoutTicks.toNat := fun heq => hne (BitVec.eq_of_toNat_eq heq)
      have hlt := h.timerRuns hp
      omega
    exact ⟨_, e, blockInv_of_busy hp { hk with timerMax := hRuns.le } { blockInv_running h hp with timerRuns := hRuns }⟩

/-! ### Host accesses and Reset -/

/-- An idle host write changes a field within its bound; a busy one reaches no field the invariant speaks of (R42, R46,
R56). -/
theorem blockInv_writeReg {s : State} (h : BlockInv s) (v : Word) (r : Reg) : BlockInv (writeReg s v r) := by
  have hk := blockInv_kept h
  cases hLock : writeLocked s r with
  | true =>
    rw [writeReg_ignored (.inl hLock)]
    exact h
  | false =>
    have hStore : writeReg s v r = storeReg s v r := by rw [writeReg, hLock]; exact if_neg Bool.false_ne_true
    rw [hStore]
    cases r with
    | status =>
      unfold storeReg
      dsimp only
      split <;> exact blockInv_congr h rfl
    | slaveAddr =>
      obtain ⟨hIdle, hClosed⟩ := Bool.or_eq_false_iff.1 hLock
      have hp := busy_eq_false.1 hIdle
      have hr := blockInv_reported h hp
      exact blockInv_of_idle hp { hk with sessionAddress := fun ho => absurd (hClosed.symm.trans ho) (by decide) }
        { hr with }
    | rxLen =>
      have hp := busy_eq_false.1 hLock
      unfold storeReg
      dsimp only
      split
      · next hv =>
        have hLen : (v.extractLsb' 0 9).toNat ≤ rxBufSize := by
          rw [BitVec.extractLsb'_toNat, Nat.shiftRight_zero]
          exact (Nat.mod_le _ _).trans hv
        exact blockInv_of_idle hp { hk with rxLenMax := hLen } { blockInv_reported h hp with }
      · exact h
    | regN =>
      have hp := busy_eq_false.1 hLock
      unfold storeReg
      dsimp only
      split
      · next hv =>
        have hN : (v.extractLsb' 0 8).toNat ≤ 127 := by
          rw [BitVec.extractLsb'_toNat, Nat.shiftRight_zero]
          exact (Nat.mod_le _ _).trans hv
        exact blockInv_of_idle hp { hk with regNMax := hN } { blockInv_reported h hp with }
      · exact h
    | regVal i =>
      have hp := busy_eq_false.1 hLock
      exact blockInv_of_idle hp (hk.writeRegVal i.isLt _) { blockInv_reported h hp with }
    | rxBuf i =>
      have hp := busy_eq_false.1 hLock
      exact blockInv_of_idle hp (hk.writeRxBuf i.isLt _) { blockInv_reported h hp with }
    | _ => exact blockInv_congr h rfl

theorem completes_hostWrite {s : State} (h : BlockInv s) (offset : BitVec 12) (size : BitVec 3) (v : Word) :
    Completes (hostWrite offset size v s) := by
  have hAnswer : ∀ err, BlockInv (answerWrite err s) := fun _ => blockInv_congr h rfl
  cases ha : admitted offset size with
  | none => exact ⟨_, hostWrite_of_not_admitted ha v s, blockInv_congr h rfl⟩
  | some r =>
    by_cases hr : r = .cmd
    · subst hr
      obtain ⟨rfl, rfl⟩ := admitted_single (.inl rfl) ha
      rw [show (BitVec.ofNat 12 (regOffset .cmd)) = 0x000#12 from rfl, hostWrite_cmd]
      exact completes_runCommand (hAnswer false) v
    · exact ⟨_, hostWrite_of_admitted ha hr v s, blockInv_writeReg (hAnswer false) v r⟩

theorem blockInv_hostRead {s : State} (h : BlockInv s) (offset : BitVec 12) (size : BitVec 3) :
    BlockInv (hostRead offset size s) := by
  cases ha : admitted offset size with
  | none => rw [hostRead_of_not_admitted ha]; exact blockInv_congr h rfl
  | some r => rw [hostRead_of_admitted ha]; exact blockInv_congr h rfl

/-- A Reset meets the invariant from any state with a timeout window (R8, R280). -/
theorem blockInv_resetBlock {s : State} (h : s.timeoutTicks ≠ 0#32) : BlockInv (resetBlock s) :=
  blockInv_of_idle rfl {
      storage := ⟨rfl, fun c hc => absurd hc List.not_mem_nil⟩
      rxLenMax := Nat.zero_le _
      regNMax := Nat.zero_le _
      txLenBuilt := .inl rfl
      txBuilt := fun hl => absurd hl (by rw [resetBlock_txLen]; decide)
      txIdxMax := Nat.zero_le _
      timeoutPositive := h
      timerMax := Nat.zero_le _
      sessionAddress := fun ho => Bool.noConfusion ho }
    ⟨.inr ⟨rfl, rfl, rfl, rfl, rfl⟩, fun hne => absurd rfl hne, by rw [resetBlock_errCode]; decide⟩

/-- TICK_HZ is at least 1, so the timeout window is at least one tick (R7, R8). -/
theorem tRespTicks_ne_zero : Config.tRespTicks ≠ 0#32 := by
  have hRate := Config.tickHzLessOne.isLt
  intro h0
  have hNat := congrArg BitVec.toNat h0
  simp only [Config.tRespTicks, Config.tickHz, Config.responseSeconds, BitVec.toNat_ofNat] at hNat
  omega

/-- Settles O50: power-up is a Reset, and the timeout window is positive. -/
theorem invariantHoldsAtReset : Obligations.InvariantHoldsAtReset := by
  unfold Obligations.InvariantHoldsAtReset
  rw [← resetBlock_reset]
  exact blockInv_resetBlock tRespTicks_ne_zero

/-! ### Events and steps -/

theorem completes_handleEvent {s : State} (h : BlockInv s) (e : Event) : Completes (handleEvent e s) := by
  have hDraw : BlockInv (nextDraw s) := blockInv_congr h rfl
  cases e with
  | hostWrite offset size v => exact completes_hostWrite hDraw offset size v
  | hostRead offset size => exact ⟨_, rfl, blockInv_hostRead hDraw offset size⟩
  | txAccept => exact completes_txAccept hDraw
  | txError => exact completes_txError hDraw
  | rxByte b err => exact completes_rxByte hDraw b err
  | tick => exact completes_tick hDraw
  | reset => exact ⟨_, rfl, blockInv_resetBlock hDraw.timeoutPositive⟩

theorem completes_runFrame {s : State} (h : BlockInv s) (kind : FrameKind) (bytes : List Byte) :
    Completes (runFrame kind bytes s) := by
  rcases runFrame_cases kind bytes s with ⟨n, e⟩ | ⟨bs, e⟩ <;> rw [e]
  · cases n with
    | zero => exact ⟨s, rfl, h⟩
    | succ n =>
      exact completes_txAccept (s := nextDraw (withInput (List.replicate n txAcceptItem ++ s.input) s))
        (blockInv_congr h rfl)
  · cases bs with
    | nil => exact ⟨s, rfl, h⟩
    | cons b bs =>
      exact completes_rxByte (s := nextDraw (withInput (bs.map rxByteItem ++ s.input) s)) (blockInv_congr h rfl) b false

/-- A step from a state of the invariant answers a next state of the invariant (R13). -/
theorem completes_step {s : State} (h : BlockInv s) : Completes (step s) := by
  rw [step, fetchAndHandle]
  obtain ⟨rest, level, e | ⟨ev, e⟩ | ⟨kind, bytes, e⟩⟩ := runScript_cases s.input s <;> rw [e]
  · exact ⟨_, rfl, blockInv_congr h rfl⟩
  · exact completes_handleEvent (blockInv_congr (t := withScript rest level s) h rfl) ev
  · exact completes_runFrame (blockInv_congr (t := withScript rest level s) h rfl) kind bytes

/-- Settles O51: a step has one outcome, and it meets the invariant. -/
theorem everyStepKeepsInvariant : Obligations.EveryStepKeepsInvariant := by
  unfold Obligations.EveryStepKeepsInvariant
  intro s t h hStep
  obtain ⟨u, hu, hInv⟩ := completes_step h
  rw [hStep] at hu
  cases hu
  exact hInv

/-- Settles O52. -/
theorem noStepStops : Obligations.NoStepStops := by
  unfold Obligations.NoStepStops
  intro s h
  obtain ⟨t, hStep, -⟩ := completes_step h
  exact ⟨t, hStep⟩

end Sys2Proof.Machine
end

section
/-! Rules of the whole machine: how a command's rule and an event can end, and from that which events leave IDLE, change
SLAVE_ADDR or the request buffer, and what a failure leaves; and that an exchange with enough ticks to come ends
(10_state.md R22 to R48; 41_transport.md R160 to R175; 60_exceptions.md R252; 70_reset_and_hazards.md R293). -/

namespace Sys2Proof.Machine

open Safety

/-! ### How a command's rule ends -/

/-- The ends of the rule of word `w` from `s`, by what of the block they write. -/
inductive CommandEnd (w : Word) (s : State) : State → Prop where
  /-- The command is refused: nothing but the report is written. -/
  | refused (e : ErrorCode) (level : Option Bool) : CommandEnd w s (raiseError e { s with phyLevel := level })
  /-- OPEN, CLOSE, DECODE or CRC ends without an error. -/
  | finished (opened : Bool) (level : Option Bool) (float : Word) (crc : Half) :
      CommandEnd w s (finish { s with opened := opened, phyLevel := level, floatResult := float, crcResult := crc })
  /-- BUILD has built its request (R122). -/
  | built (hw : w = 0x00000003#32) : CommandEnd w s (finish (buildRequest s))
  /-- PARSE ends (R124). -/
  | parsed {t : State} (hw : w = 0x00000005#32) (h : parseBody s = .next t) : CommandEnd w s t
  /-- EXCHANGE has started (R164). -/
  | exchange (hw : w = 0x00000004#32) (ho : s.opened = true) (p : Phase) :
      CommandEnd w s { startExchange s with phase := p }
  /-- XFER has built its request and started (R230). -/
  | xfer (hw : w = 0x00000008#32) (ho : s.opened = true) :
      CommandEnd w s { startExchange (buildRequest s) with phase := .tx }

/-- Every command's rule ends in one of these ways. -/
theorem CommandRule.ends {w : Word} {body : State → Result} (hr : CommandRule w body) {s t : State}
    (h : body s = .next t) : CommandEnd w s t := by
  cases hr with
  | openPort =>
    change openBody (phyPresentNow s) (samplePhy s) = .next t at h
    rcases openBody_cases (phyPresentNow s) (samplePhy s) with ⟨-, e⟩ | ⟨-, -, e⟩ | ⟨-, -, -, e⟩ | ⟨-, -, -, e⟩ <;>
      rw [e] at h <;> cases h
    · exact .finished s.opened none s.floatResult s.crcResult
    · exact .refused _ none
    · exact .refused _ none
    · exact .finished true none s.floatResult s.crcResult
  | closePort => cases h; exact .finished false s.phyLevel s.floatResult s.crcResult
  | build =>
    rcases buildBody_cases s with ⟨-, e⟩ | ⟨-, e⟩ <;> rw [e] at h <;> cases h
    · exact .refused _ s.phyLevel
    · exact .built rfl
  | exchange =>
    rcases exchangeBody_cases s with ⟨-, e⟩ | ⟨ho, -, e⟩ | ⟨ho, -, e⟩ <;> rw [e] at h <;> cases h
    · exact .refused _ s.phyLevel
    · exact .exchange rfl ho .rx
    · exact .exchange rfl ho .tx
  | parse => exact .parsed rfl h
  | decode =>
    rcases decodeBody_cases s with ⟨-, e⟩ | ⟨-, e⟩ <;> rw [e] at h <;> cases h
    · exact .refused _ s.phyLevel
    · exact .finished s.opened s.phyLevel _ s.crcResult
  | crc =>
    rcases crcBody_cases s with ⟨-, e⟩ | ⟨-, e⟩ <;> rw [e] at h <;> cases h
    exact .finished s.opened s.phyLevel s.floatResult _
  | xfer =>
    rcases xferBody_cases s with ⟨-, e⟩ | ⟨-, -, e⟩ | ⟨ho, -, e⟩ <;> rw [e] at h <;> cases h
    · exact .refused _ s.phyLevel
    · exact .refused _ s.phyLevel
    · exact .xfer rfl ho
  | illegal _ => cases h; exact .refused _ s.phyLevel

/-- Everything a CMD write can do: it is rejected, or its command ends or starts from the accepted state (R90, R92). -/
theorem runCommand_ends {w : Word} {s t : State} (h : runCommand w s = .next t) :
    (s.phase ≠ .idle ∧ t = reject s) ∨ (s.phase = .idle ∧ CommandEnd w (accept (opField w) s) t) := by
  rcases runCommand_cases h with hReject | ⟨hp, body, hr, hb⟩
  · exact .inl hReject
  · exact .inr ⟨hp, hr.ends hb⟩

/-- Everything an RxByte can do (R168 to R171, R175, R231). -/
theorem rxByte_ends {b : Byte} {err : Bool} {s t : State} (h : rxByte b err s = .next t) :
    (s.phase ≠ .rx ∧ t = s)
      ∨ (s.phase = .rx ∧ t = raiseError .ioError s)
      ∨ (s.phase = .rx ∧ t = storeRxByte b s)
      ∨ (s.phase = .rx ∧ t = finish (storeRxByte b s))
      ∨ (s.phase = .rx ∧ parseBody (storeRxByte b s) = .next t) := by
  rcases rxByte_cases b err s with ⟨hp, e⟩ | ⟨hp, -, e⟩ | ⟨-, -, -, e⟩ | ⟨hp, -, -, -, e⟩ | ⟨hp, -, -, -, e⟩ <;>
    rw [e] at h
  · cases h; exact .inl ⟨hp, rfl⟩
  · cases h; exact .inr (.inl ⟨hp, rfl⟩)
  · cases h
  · cases h; exact .inr (.inr (.inl ⟨hp, rfl⟩))
  · rw [frameDone] at h
    split at h
    · exact .inr (.inr (.inr (.inr ⟨hp, h⟩)))
    · cases h; exact .inr (.inr (.inr (.inl ⟨hp, rfl⟩)))

/-! ### The end of an exchange -/

/-- An event that leaves a running exchange running leaves the script, and TIMER but for a Tick (R40, R172). -/
theorem handleEvent_while_busy {e : Event} {s t : State} (hs : s.phase ≠ .idle) (h : handleEvent e s = .next t)
    (ht : t.phase ≠ .idle) :
    t.input = s.input ∧ t.timer = if e = .tick then s.timer + 1#32 else s.timer := by
  cases e with
  | hostWrite offset size v =>
    rcases hostWrite_cases (s := nextDraw s) h with rfl | ⟨-, -, hc⟩ | ⟨r, -, -, rfl⟩
    · exact ⟨rfl, rfl⟩
    · rw [runCommand_busy (s := answerWrite false (nextDraw s)) hs] at hc
      cases hc
      exact ⟨rfl, rfl⟩
    · obtain ⟨-, -, -, -, -, -, -, -, -, hTimer, -, -, -, -, -, hInput, -⟩ :=
        writeReg_frame (answerWrite false (nextDraw s)) v r
      exact ⟨hInput, hTimer⟩
  | hostRead offset size =>
    cases h
    unfold hostRead
    cases admitted offset size <;> exact ⟨rfl, rfl⟩
  | txAccept =>
    rcases txAccept_cases (nextDraw s) with ⟨-, e⟩ | ⟨-, -, e⟩ | ⟨-, -, e⟩ <;> rw [handleEvent, e] at h <;> cases h <;>
      exact ⟨rfl, rfl⟩
  | txError =>
    rcases txError_cases (nextDraw s) with ⟨-, e⟩ | ⟨-, e⟩ <;> rw [handleEvent, e] at h <;> cases h
    · exact ⟨rfl, rfl⟩
    · exact absurd rfl ht
  | rxByte b err =>
    obtain ⟨⟨-, -, -, -, -, -, -, -, hTimer, -, -, -, hInput, -⟩, -⟩ :=
      rxByte_frame (b := b) (err := err) (s := nextDraw s) h
    exact ⟨hInput, hTimer⟩
  | tick =>
    rcases tick_cases (nextDraw s) with ⟨hp, -⟩ | ⟨-, -, e⟩ | ⟨-, -, e⟩
    · exact absurd hp hs
    · rw [handleEvent, e] at h
      cases h
      exact absurd rfl ht
    · rw [handleEvent, e] at h
      cases h
      exact ⟨rfl, rfl⟩
  | reset =>
    cases h
    exact absurd rfl ht

theorem blockInv_withInput {s : State} (h : BlockInv s) (items : List Input) : BlockInv (withInput items s) :=
  blockInv_congr h rfl

/-- One event closer to the timeout: each event either ends the exchange or leaves enough ticks to come. -/
theorem exchange_ends (events : List Event) {s : State} {rest : List Input} (hInv : BlockInv s)
    (hScript : s.input = events.map Input.event ++ rest)
    (hTicks : s.timeoutTicks.toNat - s.timer.toNat ≤ events.count .tick) :
    ∃ (k : Nat) (t : State), k ≤ events.length ∧ Host.Core.run Sys2Proof.core k s = .next t ∧ t.phase = .idle := by
  induction events generalizing s with
  | nil =>
    refine ⟨0, s, Nat.le_refl _, rfl, ?_⟩
    by_contra hBusy
    have hRuns := hInv.timerRuns hBusy
    rw [List.count_nil] at hTicks
    omega
  | cons e events ih =>
    by_cases hIdle : s.phase = .idle
    · exact ⟨0, s, Nat.zero_le _, rfl, hIdle⟩
    obtain ⟨t, ht, hInvT⟩ := completes_handleEvent (blockInv_withInput hInv (events.map Input.event ++ rest)) e
    have hStep : step s = .next t := (step_event hScript).trans ht
    by_cases hEnd : t.phase = .idle
    · exact ⟨1, t, by rw [List.length_cons]; omega, run_next 0 hStep, hEnd⟩
    · obtain ⟨hInput, hTimer⟩ :=
        handleEvent_while_busy (s := withInput (events.map Input.event ++ rest) s) hIdle ht hEnd
      have hWindow : t.timeoutTicks = s.timeoutTicks := step_timeoutTicks hStep
      have hLeft : t.timeoutTicks.toNat - t.timer.toNat ≤ events.count .tick := by
        rw [List.count_cons] at hTicks
        rw [hWindow, hTimer]
        by_cases he : e = .tick
        · have hSucc := toNat_timer_succ (hInv.timerRuns hIdle)
          rw [if_pos he]
          rw [he, if_pos (beq_self_eq_true _)] at hTicks
          rw [show (withInput (events.map Input.event ++ rest) s).timer = s.timer from rfl, hSucc]
          omega
        · rw [if_neg he]
          rw [if_neg (by simpa using he)] at hTicks
          exact hTicks
      obtain ⟨k, u, hk, hRun, hu⟩ := ih hInvT hInput hLeft
      exact ⟨k + 1, u, by rw [List.length_cons]; omega, (run_next k hStep).trans hRun, hu⟩

/-- Settles O53, by induction on the events. -/
theorem everyExchangeEnds : Obligations.EveryExchangeEnds := by
  unfold Obligations.EveryExchangeEnds
  intro s events rest hInv hScript hTicks
  exact exchange_ends events hInv hScript hTicks

/-- Settles O35: the Tick raises TIMEOUT and leaves the session, in which the next EXCHANGE and XFER are accepted. -/
theorem sessionSurvivesTimeout : Obligations.SessionSurvivesTimeout := by
  unfold Obligations.SessionSurvivesTimeout
  intro s hInv hBusy hTimer
  have hOpen : s.opened = true := hInv.busyOpened hBusy
  have hAddr : addressOk s = true := hInv.sessionAddress hOpen
  refine ⟨_, tick_of_elapsed hBusy hTimer, rfl, rfl, rfl, rfl, rfl, rfl, rfl, fun late err => ?_, ?_, ?_⟩
  · exact rxByte_of_not_rx Phase.noConfusion late err
  · generalize hs : raiseError .timeout { s with timer := s.timeoutTicks } = u
    have hu : u.phase = .idle ∧ u.opened = true := by rw [← hs]; exact ⟨rfl, hOpen⟩
    rw [exec_exchange_idle hu.1, exchangeBody_of_opened (s := accept 4#4 u) hu.2]
    split
    · exact ⟨_, rfl, Phase.noConfusion, rfl, rfl⟩
    · exact ⟨_, rfl, Phase.noConfusion, rfl, rfl⟩
  · exact ⟨_, exec_xfer_of_addressOk (s := raiseError .timeout { s with timer := s.timeoutTicks }) rfl hOpen hAddr,
      rfl, rfl, rfl⟩

/-! ### What makes the block BUSY -/

/-- From the accepted state a command's rule ends IDLE, unless it starts an EXCHANGE or an XFER in a session (R160). -/
theorem CommandEnd.phase {w : Word} {s t : State} (h : CommandEnd w s t) :
    t.phase = .idle ∨ (s.opened = true ∧ (w = 0x00000004#32 ∨ w = 0x00000008#32)) := by
  cases h with
  | refused | finished | built => exact .inl rfl
  | parsed _ h =>
    obtain ⟨-, hIdle, -⟩ := parseBody_frame h
    exact .inl hIdle
  | exchange hw ho => exact .inr ⟨ho, .inl hw⟩
  | xfer hw ho => exact .inr ⟨ho, .inr hw⟩

/-- Settles O54: while IDLE the PHY and the tick do nothing, and of the host's accesses a CMD write alone changes the
phase. -/
theorem onlyExchangesLeaveIdle : Obligations.OnlyExchangesLeaveIdle := by
  unfold Obligations.OnlyExchangesLeaveIdle
  intro e s t hIdle h hBusy
  have hNotTx : (nextDraw s).phase ≠ .tx := by rw [nextDraw_phase, hIdle]; exact Phase.noConfusion
  have hNotRx : (nextDraw s).phase ≠ .rx := by rw [nextDraw_phase, hIdle]; exact Phase.noConfusion
  cases e with
  | hostWrite offset size v =>
    rcases hostWrite_cases (s := nextDraw s) h with rfl | ⟨rfl, rfl, hc⟩ | ⟨r, -, -, rfl⟩
    · exact absurd hIdle hBusy
    · rcases runCommand_ends hc with ⟨hp, -⟩ | ⟨-, hEnd⟩
      · exact absurd hIdle hp
      · rcases hEnd.phase with ht | ⟨ho, rfl | rfl⟩
        · exact absurd ht hBusy
        · exact ⟨ho, .inl rfl⟩
        · exact ⟨ho, .inr rfl⟩
    · obtain ⟨hPhase, -⟩ := writeReg_frame (answerWrite false (nextDraw s)) v r
      exact absurd (hPhase.trans hIdle) hBusy
  | hostRead offset size =>
    cases h
    unfold hostRead at hBusy
    cases hRead : admitted offset size <;> rw [hRead] at hBusy <;> exact absurd hIdle hBusy
  | txAccept =>
    rw [handleEvent, txAccept_of_not_tx hNotTx] at h
    cases h
    exact absurd hIdle hBusy
  | txError =>
    rw [handleEvent, txError_of_not_tx hNotTx] at h
    cases h
    exact absurd hIdle hBusy
  | rxByte b err =>
    rw [handleEvent, rxByte_of_not_rx hNotRx] at h
    cases h
    exact absurd hIdle hBusy
  | tick =>
    rw [handleEvent, tick_of_idle (s := nextDraw s) hIdle] at h
    cases h
    exact absurd hIdle hBusy
  | reset =>
    cases h
    exact absurd rfl hBusy

/-! ### The identity of a session -/

/-- The lock decides between no effect and the store (R56). -/
theorem writeReg_lock (s : State) (v : Word) (r : Reg) : writeReg s v r = s ∨ writeReg s v r = storeReg s v r := by
  unfold writeReg
  split
  · exact .inl rfl
  · exact .inr rfl

/-- A write to another register leaves SLAVE_ADDR (R64). -/
theorem storeReg_slaveAddr {r : Reg} (hr : r ≠ .slaveAddr) (s : State) (v : Word) :
    (storeReg s v r).slaveAddr = s.slaveAddr := by
  cases r with
  | slaveAddr => exact absurd rfl hr
  | status | rxLen | regN =>
    unfold storeReg
    dsimp only
    split <;> rfl
  | _ => rfl

/-- A write to a register that is no buffer entry leaves the buffers (R64). -/
theorem storeReg_mem {r : Reg} (hVal : ∀ i, r ≠ .regVal i) (hRx : ∀ i, r ≠ .rxBuf i) (s : State) (v : Word) :
    (storeReg s v r).mem = s.mem := by
  cases r with
  | regVal i => exact absurd rfl (hVal i)
  | rxBuf i => exact absurd rfl (hRx i)
  | status | rxLen | regN =>
    unfold storeReg
    dsimp only
    split <;> rfl
  | _ => rfl

/-- In a session SLAVE_ADDR is locked, and no other register's write reaches it (R56, R162). -/
theorem writeReg_slaveAddr {s : State} (ho : s.opened = true) (v : Word) (r : Reg) :
    (writeReg s v r).slaveAddr = s.slaveAddr := by
  by_cases hr : r = .slaveAddr
  · rw [hr, writeReg_ignored (.inl (by simp [writeLocked, ho]))]
  · rcases writeReg_lock s v r with e | e <;> rw [e]
    exact storeReg_slaveAddr hr s v

/-- Settles O57: a Reset closes the session, no command and no event of the PHY or the tick writes SLAVE_ADDR, and a
write to it is locked. -/
theorem addressFixedInSession : Obligations.AddressFixedInSession := by
  unfold Obligations.AddressFixedInSession
  intro e s t ho h hOpen
  rcases handleEvent_cases h with ⟨-, rfl⟩ | ⟨w, -, hc⟩ | ⟨_, _, v, r, -, -, -, rfl⟩ | hk
  · cases hOpen
  · rcases runCommand_cases hc with ⟨-, rfl⟩ | ⟨-, body, hr, hb⟩
    · rfl
    · exact (hr.keepsSettings hb).slaveAddr
  · exact writeReg_slaveAddr (s := answerWrite false (nextDraw s)) ho v r
  · exact hk.slaveAddr

/-! ### The request buffer -/

/-- `t` has the TX_LEN and the TXBUF of `s`. -/
structure KeepsRequest (s t : State) : Prop where
  txLen : t.txLen = s.txLen
  txBuf : ∀ k, k < 8 → t.mem.read (txAddr k) = s.mem.read (txAddr k)

/-- PARSE writes REGVAL alone of the buffers (R124). -/
theorem parseBody_keepsRequest {s t : State} (h : parseBody s = .next t) : KeepsRequest s t := by
  obtain ⟨⟨-, -, -, -, -, -, -, -, -, hLen, -⟩, -, -, -, -, hMem⟩ := parseBody_frame h
  refine ⟨hLen, fun k hk => ?_⟩
  rcases hMem with ⟨-, -, -, hMem, -⟩ | ⟨-, -, hMem⟩ <;> rw [hMem]
  exact writeRegVals_read_other _ s.mem 0 _ fun i _ => txAddr_ne_regValAddr hk (0 + i)

/-- The receiver writes RXBUF alone, and REGVAL at the end of an XFER (R168, R231). -/
theorem rxByte_keepsRequest {b : Byte} {err : Bool} {s t : State} (h : rxByte b err s = .next t) :
    KeepsRequest s t := by
  have hStored : ∀ k, k < 8 → (storeRxByte b s).mem.read (txAddr k) = s.mem.read (txAddr k) :=
    fun k hk => Memory.read_write_other s.mem b (txAddr_ne_rxAddr hk _)
  rcases rxByte_ends h with ⟨-, rfl⟩ | ⟨-, rfl⟩ | ⟨-, rfl⟩ | ⟨-, rfl⟩ | ⟨-, hParse⟩
  · exact ⟨rfl, fun _ _ => rfl⟩
  · exact ⟨rfl, fun _ _ => rfl⟩
  · exact ⟨rfl, hStored⟩
  · exact ⟨rfl, hStored⟩
  · have hKeeps := parseBody_keepsRequest hParse
    exact ⟨hKeeps.txLen, fun k hk => (hKeeps.txBuf k hk).trans (hStored k hk)⟩

/-- TXBUF is read-only, and no write to another register reaches it (R48, R67). -/
theorem writeReg_keepsRequest (s : State) (v : Word) (r : Reg) : KeepsRequest s (writeReg s v r) := by
  obtain ⟨-, -, -, -, -, -, -, -, -, -, hLen, -⟩ := writeReg_frame s v r
  refine ⟨hLen, fun k hk => ?_⟩
  rcases writeReg_lock s v r with e | e <;> rw [e]
  cases r with
  | regVal i =>
    obtain ⟨hLow, hHigh⟩ := txAddr_ne_regValAddr hk i.val
    exact (writeRegVal_read s.mem i.val _ _).trans ((if_neg hHigh).trans (if_neg hLow))
  | rxBuf i => exact Memory.read_write_other s.mem _ (txAddr_ne_rxAddr hk i.val)
  | _ => rw [storeReg_mem (fun _ => Reg.noConfusion) fun _ => Reg.noConfusion]

/-- Of the commands BUILD and XFER alone write the request (R41, R48). -/
theorem CommandEnd.keepsRequest {w : Word} {s t : State} (h : CommandEnd w s t) :
    KeepsRequest s t ∨ w = 0x00000003#32 ∨ w = 0x00000008#32 := by
  cases h with
  | refused | finished | exchange => exact .inl ⟨rfl, fun _ _ => rfl⟩
  | built hw => exact .inr (.inl hw)
  | parsed _ h => exact .inl (parseBody_keepsRequest h)
  | xfer hw => exact .inr (.inr hw)

/-- Every event keeps the request but a Reset, a BUILD and an XFER. -/
theorem handleEvent_keepsRequest {e : Event} {s t : State} (h : handleEvent e s = .next t) :
    KeepsRequest s t ∨ e = .reset ∨ e = .hostWrite 0x000#12 4#3 0x00000003#32
      ∨ e = .hostWrite 0x000#12 4#3 0x00000008#32 := by
  have hSame : KeepsRequest s s := ⟨rfl, fun _ _ => rfl⟩
  cases e with
  | hostWrite offset size v =>
    rcases hostWrite_cases (s := nextDraw s) h with rfl | ⟨rfl, rfl, hc⟩ | ⟨r, -, -, rfl⟩
    · exact .inl { hSame with }
    · rcases runCommand_ends hc with ⟨-, rfl⟩ | ⟨-, hEnd⟩
      · exact .inl { hSame with }
      · rcases hEnd.keepsRequest with hk | rfl | rfl
        · exact .inl { hk with }
        · exact .inr (.inr (.inl rfl))
        · exact .inr (.inr (.inr rfl))
    · exact .inl { writeReg_keepsRequest (answerWrite false (nextDraw s)) v r with }
  | hostRead offset size =>
    cases h
    unfold hostRead
    cases admitted offset size <;> exact .inl { hSame with }
  | txAccept =>
    rcases txAccept_cases (nextDraw s) with ⟨-, e⟩ | ⟨-, -, e⟩ | ⟨-, -, e⟩ <;> rw [handleEvent, e] at h <;> cases h <;>
      exact .inl { hSame with }
  | txError =>
    rcases txError_cases (nextDraw s) with ⟨-, e⟩ | ⟨-, e⟩ <;> rw [handleEvent, e] at h <;> cases h <;>
      exact .inl { hSame with }
  | rxByte b err => exact .inl { rxByte_keepsRequest (b := b) (err := err) (s := nextDraw s) h with }
  | tick =>
    rcases tick_cases (nextDraw s) with ⟨-, e⟩ | ⟨-, -, e⟩ | ⟨-, -, e⟩ <;> rw [handleEvent, e] at h <;> cases h <;>
      exact .inl { hSame with }
  | reset => exact .inr (.inl rfl)

/-- Settles O59. -/
theorem requestBufferWriters : Obligations.RequestBufferWriters := by
  unfold Obligations.RequestBufferWriters
  intro e s t h hChanged
  rcases handleEvent_keepsRequest h with hKeeps | hWriter
  · rcases hChanged with hLen | ⟨k, hk, hByte⟩
    · exact absurd hKeeps.txLen hLen
    · exact absurd (hKeeps.txBuf k hk) hByte
  · exact hWriter

/-! ### What a failure leaves -/

/-- `t` has the results of `s`: FLOAT_RESULT, RESP_HDR and every entry of REGVAL. -/
structure KeepsResults (s t : State) : Prop where
  floatResult : t.floatResult = s.floatResult
  respHdr : t.respHdr = s.respHdr
  regVal : ∀ k, k < 127 → t.mem.read (regValAddr k) = s.mem.read (regValAddr k)
    ∧ t.mem.read (regValAddr k + 1) = s.mem.read (regValAddr k + 1)

/-- States with the same results. -/
theorem KeepsResults.of_eq {s t : State} (hFloat : t.floatResult = s.floatResult) (hHdr : t.respHdr = s.respHdr)
    (hMem : t.mem = s.mem) : KeepsResults s t :=
  ⟨hFloat, hHdr, fun k _ => by rw [hMem]; exact ⟨rfl, rfl⟩⟩

theorem KeepsResults.trans {s t u : State} (h₁ : KeepsResults s t) (h₂ : KeepsResults t u) : KeepsResults s u where
  floatResult := h₂.floatResult.trans h₁.floatResult
  respHdr := h₂.respHdr.trans h₁.respHdr
  regVal k hk := by
    obtain ⟨low₁, high₁⟩ := h₁.regVal k hk
    obtain ⟨low₂, high₂⟩ := h₂.regVal k hk
    exact ⟨low₂.trans low₁, high₂.trans high₁⟩

/-- REGVAL and RXBUF do not overlap. -/
theorem regValAddr_ne_rxAddr {i : Nat} (hi : i < 127) (j : Nat) :
    regValAddr i ≠ rxAddr j ∧ regValAddr i + 1 ≠ rxAddr j := by
  unfold regValAddr rxAddr
  omega

/-- A write into RXBUF writes no result. -/
theorem keepsResults_writeRxBuf (s : State) (i : Nat) (b : Byte) :
    KeepsResults s { s with mem := s.mem.write (rxAddr i) b } where
  floatResult := rfl
  respHdr := rfl
  regVal k hk := by
    obtain ⟨hLow, hHigh⟩ := regValAddr_ne_rxAddr hk i
    exact ⟨Memory.read_write_other s.mem b hLow, Memory.read_write_other s.mem b hHigh⟩

theorem keepsResults_storeRxByte (b : Byte) (s : State) : KeepsResults s (storeRxByte b s) :=
  { keepsResults_writeRxBuf s s.rxLen.toNat b with }

/-- A PARSE that fails, with nothing reported before: no result, and REG_N is 0 (R124, R252). -/
theorem parseBody_failed {s t : State} (h0 : s.errCode = 0#8) (h : parseBody s = .next t) (hCode : t.errCode ≠ 0#8) :
    KeepsResults s t ∧ t.regN = 0#8 := by
  obtain ⟨⟨-, -, -, -, -, -, -, -, -, -, hFloat, -⟩, -, -, -, -, hEnd⟩ := parseBody_frame h
  rcases hEnd with ⟨-, -, hN, hMem, hHdr⟩ | ⟨hNone, -, -⟩
  · exact ⟨.of_eq hFloat hHdr hMem, hN⟩
  · exact absurd (hNone.trans h0) hCode

/-- A command that fails writes no result (R252). -/
theorem CommandEnd.failed {w : Word} {s t : State} (h0 : s.errCode = 0#8) (h : CommandEnd w s t)
    (hCode : t.errCode ≠ 0#8) : KeepsResults s t := by
  cases h with
  | refused => exact .of_eq rfl rfl rfl
  | parsed _ h => exact (parseBody_failed h0 h hCode).1
  | finished | built | exchange | xfer => exact absurd h0 hCode

theorem runCommand_failed {w : Word} {s t : State} (h : runCommand w s = .next t) (hCode : t.errCode ≠ 0#8) :
    KeepsResults s t := by
  rcases runCommand_ends h with ⟨-, rfl⟩ | ⟨-, hEnd⟩
  · exact .of_eq rfl rfl rfl
  · exact (KeepsResults.of_eq (s := s) (t := accept (opField w) s) rfl rfl rfl).trans
      (hEnd.failed (accept_errCode _ _) hCode)

theorem txAccept_keepsResults {s t : State} (h : txAccept s = .next t) : KeepsResults s t := by
  rcases txAccept_cases s with ⟨-, e⟩ | ⟨-, -, e⟩ | ⟨-, -, e⟩ <;> rw [e] at h <;> cases h <;> exact .of_eq rfl rfl rfl

/-- A byte that ends an exchange with an error writes no result (R170, R231, R252). -/
theorem rxByte_failed {b : Byte} {err : Bool} {s t : State} (h0 : s.phase = .rx → s.errCode = 0#8)
    (h : rxByte b err s = .next t) (hCode : t.errCode ≠ 0#8) : KeepsResults s t := by
  rcases rxByte_ends h with ⟨-, rfl⟩ | ⟨-, rfl⟩ | ⟨-, rfl⟩ | ⟨-, rfl⟩ | ⟨hp, hParse⟩
  · exact .of_eq rfl rfl rfl
  · exact .of_eq rfl rfl rfl
  · exact keepsResults_storeRxByte b s
  · exact { keepsResults_storeRxByte b s with }
  · exact (keepsResults_storeRxByte b s).trans (parseBody_failed (s := storeRxByte b s) (h0 hp) hParse hCode).1

/-- A host write to a register other than CMD and REGVAL writes no result (R67). -/
theorem writeReg_keepsResults {r : Reg} (hr : ∀ i, r ≠ .regVal i) (s : State) (v : Word) :
    KeepsResults s (writeReg s v r) := by
  obtain ⟨-, -, -, -, -, -, -, -, -, -, -, -, hHdr, hFloat, -⟩ := writeReg_frame s v r
  rcases writeReg_lock s v r with e | e
  · exact .of_eq hFloat hHdr (by rw [e])
  · cases r with
    | regVal i => exact absurd rfl (hr i)
    | rxBuf i =>
      rw [e]
      exact keepsResults_writeRxBuf s i.val _
    | _ => exact .of_eq hFloat hHdr (by rw [e, storeReg_mem hr fun _ => Reg.noConfusion])

/-- While an exchange runs no error is reported (R72). -/
theorem errCode_of_rx {s : State} (h : BlockInv s) (hp : s.phase = .rx) : s.errCode = 0#8 := by
  obtain ⟨-, -, hCode, -⟩ := h.busyUnreported (by rw [hp]; exact Phase.noConfusion)
  exact hCode

/-- The instruction of a command word is what its write runs. -/
theorem exec_eq_runCommand {w : Word} {i : Instr} (h : Sys2Proof.decode (.command w) = .ok i) (s : State) :
    exec i s = runCommand w s := by
  rw [runCommand, h]

/-- An instruction that fails writes no result (R252). -/
theorem exec_failed (i : Instr) {s t : State} (hInv : BlockInv s) (h : exec i s = .next t) (hCode : t.errCode ≠ 0#8) :
    KeepsResults s t := by
  have command : ∀ w, Sys2Proof.decode (.command w) = .ok i → KeepsResults s t := fun w hw =>
    runCommand_failed ((exec_eq_runCommand hw s).symm.trans h) hCode
  have bytes : ∀ b bs, receiveBytes (b :: bs) s = .next t → KeepsResults s t := fun b bs hb =>
    { rxByte_failed (s := nextDraw (withInput (bs.map rxByteItem ++ s.input) s)) (errCode_of_rx (s := s) hInv) hb hCode
      with }
  cases i with
  | openPort => exact command 1#32 rfl
  | closePort => exact command 2#32 rfl
  | build => exact command 3#32 rfl
  | exchange => exact command 4#32 rfl
  | parse => exact command 5#32 rfl
  | decode => exact command 6#32 rfl
  | crc => exact command 7#32 rfl
  | xfer => exact command 8#32 rfl
  | reqReadHolding slave start count check =>
    simp only [exec, execReqReadHolding] at h
    split at h
    · exact { txAccept_keepsResults (s := nextDraw (withInput (List.replicate 7 txAcceptItem ++ s.input) s)) h with }
    · exact bytes _ _ h
  | respReadHolding slave func byteCount payload check => exact bytes _ _ h
  | respException slave func code check => exact bytes _ _ h

/-- An event that leaves an error, other than a host write to REGVAL, writes no result (R252). -/
theorem handleEvent_failed {e : Event} {s t : State} (hInv : BlockInv s) (h : handleEvent e s = .next t)
    (hCode : t.errCode ≠ 0#8)
    (hWrite : ∀ (k : Fin 127) offset size v, e = .hostWrite offset size v → admitted offset size ≠ some (.regVal k)) :
    KeepsResults s t := by
  have hDraw : KeepsResults s (nextDraw s) := .of_eq rfl rfl rfl
  cases e with
  | hostWrite offset size v =>
    have hAnswer : ∀ err, KeepsResults s (answerWrite err (nextDraw s)) := fun _ => .of_eq rfl rfl rfl
    rcases hostWrite_cases (s := nextDraw s) h with rfl | ⟨-, -, hc⟩ | ⟨r, -, ha, rfl⟩
    · exact hAnswer true
    · exact (hAnswer false).trans (runCommand_failed hc hCode)
    · refine (hAnswer false).trans (writeReg_keepsResults ?_ _ v)
      rintro k rfl
      exact hWrite k offset size v rfl ha
  | hostRead offset size =>
    cases h
    unfold hostRead
    cases admitted offset size <;> exact .of_eq rfl rfl rfl
  | txAccept => exact hDraw.trans (txAccept_keepsResults h)
  | txError =>
    rcases txError_cases (nextDraw s) with ⟨-, e⟩ | ⟨-, e⟩ <;> rw [handleEvent, e] at h <;> cases h <;>
      exact .of_eq rfl rfl rfl
  | rxByte b err => exact hDraw.trans (rxByte_failed (s := nextDraw s) (errCode_of_rx (s := s) hInv) h hCode)
  | tick =>
    rcases tick_cases (nextDraw s) with ⟨-, e⟩ | ⟨-, -, e⟩ | ⟨-, -, e⟩ <;> rw [handleEvent, e] at h <;> cases h <;>
      exact .of_eq rfl rfl rfl
  | reset =>
    cases h
    exact absurd rfl hCode

/-- XFER at its accept step leaves REG_N, whatever it answers (R230). -/
theorem execXfer_regN {s t : State} (hp : s.phase = .idle) (h : exec .xfer s = .next t) : t.regN = s.regN := by
  rw [exec_xfer_idle hp] at h
  rcases xferBody_cases (accept 8#4 s) with ⟨-, e⟩ | ⟨-, -, e⟩ | ⟨-, -, e⟩ <;> rw [e] at h <;> cases h <;> rfl

/-- What REG_N is when an event ends a running XFER with an error: as before after TIMEOUT and IO_ERROR (log 24), and 0
after a failed PARSE (R46, R124, R256). -/
theorem handleEvent_failed_regN {e : Event} {s t : State} (hInv : BlockInv s) (hBusy : s.phase ≠ .idle)
    (h : handleEvent e s = .next t) (hCode : t.errCode ≠ 0#8) :
    if t.errCode = 0x02#8 ∨ t.errCode = 0x03#8 then t.regN = s.regN else t.regN = 0#8 := by
  obtain ⟨-, -, h0, -⟩ := hInv.busyUnreported hBusy
  cases e with
  | hostWrite offset size v =>
    rcases hostWrite_cases (s := nextDraw s) h with rfl | ⟨-, -, hc⟩ | ⟨r, -, -, rfl⟩
    · exact absurd h0 hCode
    · rw [runCommand_busy (s := answerWrite false (nextDraw s)) hBusy] at hc
      cases hc
      exact absurd h0 hCode
    · obtain ⟨-, -, -, -, -, -, hSame, -⟩ := writeReg_frame (answerWrite false (nextDraw s)) v r
      exact absurd (hSame.trans h0) hCode
  | hostRead offset size =>
    cases h
    unfold hostRead at hCode
    cases ha : admitted offset size <;> rw [ha] at hCode <;> exact absurd h0 hCode
  | txAccept =>
    rcases txAccept_cases (nextDraw s) with ⟨-, e⟩ | ⟨-, -, e⟩ | ⟨-, -, e⟩ <;> rw [handleEvent, e] at h <;> cases h <;>
      exact absurd h0 hCode
  | txError =>
    rcases txError_cases (nextDraw s) with ⟨-, e⟩ | ⟨-, e⟩ <;> rw [handleEvent, e] at h <;> cases h
    · exact absurd h0 hCode
    · exact Eq.mpr (if_pos (.inr rfl)) rfl
  | rxByte b err =>
    rcases rxByte_ends (b := b) (err := err) (s := nextDraw s) h with
      ⟨-, rfl⟩ | ⟨-, rfl⟩ | ⟨-, rfl⟩ | ⟨-, rfl⟩ | ⟨-, hParse⟩
    · exact absurd h0 hCode
    · exact Eq.mpr (if_pos (.inr rfl)) rfl
    · exact absurd h0 hCode
    · exact absurd h0 hCode
    · have hParseCode : ¬ (t.errCode = 0x02#8 ∨ t.errCode = 0x03#8) := by
        rcases parseBody_code hParse with hNone | hFive
        · exact absurd (hNone.trans h0) hCode
        · rintro (hTwo | hThree)
          · rw [hTwo] at hFive; exact absurd hFive (by decide)
          · rw [hThree] at hFive; exact absurd hFive (by decide)
      rw [if_neg hParseCode]
      exact (parseBody_failed (s := storeRxByte b (nextDraw s)) h0 hParse hCode).2
  | tick =>
    rcases tick_cases (nextDraw s) with ⟨-, e⟩ | ⟨-, -, e⟩ | ⟨-, -, e⟩ <;> rw [handleEvent, e] at h <;> cases h
    · exact absurd h0 hCode
    · exact Eq.mpr (if_pos (.inl rfl)) rfl
    · exact absurd h0 hCode
  | reset =>
    cases h
    exact absurd rfl hCode

/-- Settles O60: no result by what an instruction and an event keep when they fail, then REG_N in each of its cases. -/
theorem failureGivesNoResult : Obligations.FailureGivesNoResult := by
  unfold Obligations.FailureGivesNoResult
  intro noResult
  have results : ∀ {s t : State}, KeepsResults s t → noResult s t := fun h => ⟨h.floatResult, h.respHdr, h.regVal⟩
  refine ⟨fun i s t hInv h hCode => results (exec_failed i hInv h hCode),
    fun e s t hInv h hCode hWrite => results (handleEvent_failed hInv h hCode hWrite),
    fun s t hp h hCode => ?_, fun s t hp h _ => execXfer_regN hp h,
    fun e s t hInv hBusy _ h hCode => handleEvent_failed_regN hInv hBusy h hCode⟩
  rw [exec_parse_idle hp] at h
  exact (parseBody_failed (s := accept 5#4 s) rfl h hCode).2

end Sys2Proof.Machine
end

section
/-! The CRC-16/Modbus function (40_frame_codec.md R120, R121): its bit step is linear and injective, so a table of the
register's low byte does for it, a frame's own trailer clears it, and no single flipped bit escapes it. -/

namespace Sys2Proof.Machine

open Safety

/-! ### The bit step is linear -/

theorem crcBit_xor (a b : Half) : crcBit (a ^^^ b) = crcBit a ^^^ crcBit b := by
  unfold crcBit
  rw [BitVec.getLsbD_xor, BitVec.ushiftRight_xor_distrib]
  cases a.getLsbD 0 <;> cases b.getLsbD 0
  · rfl
  · exact BitVec.xor_assoc _ _ _
  · change (a >>> 1) ^^^ (b >>> 1) ^^^ 0xA001#16 = (a >>> 1) ^^^ 0xA001#16 ^^^ (b >>> 1)
    rw [BitVec.xor_assoc, BitVec.xor_comm (b >>> 1), BitVec.xor_assoc]
  · change (a >>> 1) ^^^ (b >>> 1) = ((a >>> 1) ^^^ 0xA001#16) ^^^ ((b >>> 1) ^^^ 0xA001#16)
    rw [BitVec.xor_comm (b >>> 1) 0xA001#16, BitVec.xor_assoc, ← BitVec.xor_assoc 0xA001#16, BitVec.xor_self,
      BitVec.zero_xor]

theorem crcBits_xor (n : Nat) (a b : Half) : crcBits n (a ^^^ b) = crcBits n a ^^^ crcBits n b := by
  induction n generalizing a b with
  | zero => rfl
  | succ n ih => rw [crcBits, crcBit_xor, ih, crcBits, crcBits]

/-! ### The table-driven form -/

/-- Eight bit steps move a high byte down, as every bit they shift out is 0. -/
theorem crcBits_eight_high (h : Byte) : crcBits 8 (h ++ 0#8) = h.zeroExtend 16 := by
  revert h; decide

/-- A register with a byte XORed into its low half, as its high byte and the index into the table. -/
theorem xor_zeroExtend_eq (c : Half) (b : Byte) :
    c ^^^ b.zeroExtend 16 = (hiByte c ++ 0#8) ^^^ (loByte c ^^^ b).zeroExtend 16 := by
  apply BitVec.eq_of_getLsbD_eq
  intro i hi
  simp only [BitVec.truncate_eq_setWidth, BitVec.getLsbD_xor, BitVec.getLsbD_setWidth, BitVec.getLsbD_append,
    getLsbD_hiByte, getLsbD_loByte, hi, decide_true, Bool.true_and]
  by_cases h : i < 8
  · simp [h]
  · have hHigh : 8 + (i - 8) = i ∧ i - 8 < 8 := by omega
    simp [h, hHigh]

theorem ushiftRight_eight_eq (c : Half) : c >>> 8 = (hiByte c).zeroExtend 16 := by
  apply BitVec.eq_of_getLsbD_eq
  intro i hi
  simp only [BitVec.truncate_eq_setWidth, BitVec.getLsbD_ushiftRight, BitVec.getLsbD_setWidth, getLsbD_hiByte, hi,
    decide_true, Bool.true_and]
  by_cases h : i < 8
  · simp [h]
  · rw [BitVec.getLsbD_of_ge c (8 + i) (by omega)]
    simp

theorem crcByteByTable_eq (c : Half) (b : Byte) : crcByteByTable c b = crcByte c b := by
  rw [crcByteByTable, crcTable, crcByte, xor_zeroExtend_eq, crcBits_xor, crcBits_eight_high, ushiftRight_eight_eq]

/-- Settles O10: the two forms agree byte by byte. -/
theorem tableDrivenCrcAgrees : Obligations.TableDrivenCrcAgrees := by
  unfold Obligations.TableDrivenCrcAgrees
  intro bytes
  rw [crc16ByTable, crc16, show crcByteByTable = crcByte from funext fun c => funext fun b => crcByteByTable_eq c b]

/-- Settles O9. -/
theorem crcWorkedValues : Obligations.CrcWorkedValues := by
  unfold Obligations.CrcWorkedValues
  decide +kernel

/-! ### The residue -/

/-- A register's own low byte leaves its high byte, moved down. -/
theorem crcByte_loByte (c : Half) : crcByte c (loByte c) = c >>> 8 := by
  rw [← crcByteByTable_eq, crcByteByTable, BitVec.xor_self]
  exact BitVec.xor_zero

theorem crc16_append (xs ys : List Byte) : crc16 (xs ++ ys) = ys.foldl crcByte (crc16 xs) :=
  List.foldl_append

/-- A frame with its own trailer has the residue 0 (R121). -/
theorem crc16_withTrailer (bytes : List Byte) : crc16 (withTrailer bytes) = 0#16 := by
  have hHigh : loByte (crc16 bytes >>> 8) = hiByte (crc16 bytes) := by
    rw [ushiftRight_eight_eq, loByte]
    exact (BitVec.extractLsb'_setWidth_of_le (show 0 + 8 ≤ 16 by decide)).trans BitVec.extractLsb'_eq_self
  rw [withTrailer, crc16_append]
  change crcByte (crcByte (crc16 bytes) (loByte (crc16 bytes))) (hiByte (crc16 bytes)) = 0#16
  rw [crcByte_loByte, ← hHigh, crcByte_loByte]
  apply BitVec.eq_of_getLsbD_eq
  intro i _
  simp only [BitVec.getLsbD_ushiftRight, BitVec.getLsbD_zero]
  exact BitVec.getLsbD_of_ge _ _ (by omega)

/-! ### The register forgets nothing -/

/-- Bit 15 after a bit step is the bit shifted out, as 0xA001 has it set. -/
theorem getLsbD_crcBit_fifteen (c : Half) : (crcBit c).getLsbD 15 = c.getLsbD 0 := by
  unfold crcBit
  cases h : c.getLsbD 0 <;> simp

theorem eq_zero_of_crcBit {c : Half} (h : crcBit c = 0#16) : c = 0#16 := by
  have hLow : c.getLsbD 0 = false := by
    rw [← getLsbD_crcBit_fifteen, h]
    rfl
  have hShift : c >>> 1 = 0#16 := by
    rwa [crcBit, hLow] at h
  apply BitVec.eq_of_getLsbD_eq
  intro i _
  rw [BitVec.getLsbD_zero]
  cases i with
  | zero => exact hLow
  | succ i =>
    have hBit := congrArg (·.getLsbD i) hShift
    rwa [BitVec.getLsbD_ushiftRight, BitVec.getLsbD_zero, Nat.add_comm] at hBit

theorem crcBits_injective (n : Nat) {a b : Half} (h : crcBits n a = crcBits n b) : a = b := by
  induction n generalizing a b with
  | zero => exact h
  | succ n ih =>
    have hBit : crcBit a = crcBit b := ih h
    rw [← BitVec.xor_eq_zero_iff] at hBit ⊢
    rw [← crcBit_xor] at hBit
    exact eq_zero_of_crcBit hBit

theorem crcByte_injective_left {a c : Half} {b : Byte} (h : crcByte a b = crcByte c b) : a = c :=
  (BitVec.xor_left_inj _).1 (crcBits_injective 8 h)

theorem crcByte_injective_right {c : Half} {a b : Byte} (h : crcByte c a = crcByte c b) : a = b := by
  have hExt : a.zeroExtend 16 = b.zeroExtend 16 := (BitVec.xor_right_inj _).1 (crcBits_injective 8 h)
  have hNat := congrArg BitVec.toNat hExt
  simp only [BitVec.truncate_eq_setWidth, BitVec.toNat_setWidth] at hNat
  have ha := a.isLt
  have hb := b.isLt
  exact BitVec.eq_of_toNat_eq (by omega)

theorem foldl_crcByte_injective (bytes : List Byte) {a c : Half}
    (h : bytes.foldl crcByte a = bytes.foldl crcByte c) : a = c := by
  induction bytes generalizing a c with
  | nil => exact h
  | cons b bytes ih => exact crcByte_injective_left (ih h)

/-- One byte changed, wherever it stands, changes the register at the end. -/
theorem foldl_crcByte_modify_ne {f : Byte → Byte} (hf : ∀ b, f b ≠ b) {bytes : List Byte} {k : Nat}
    (hk : k < bytes.length) (c : Half) : (bytes.modify k f).foldl crcByte c ≠ bytes.foldl crcByte c := by
  induction bytes generalizing k c with
  | nil => exact absurd hk (Nat.not_lt_zero k)
  | cons b bytes ih =>
    cases k with
    | zero =>
      rw [List.modify_zero_cons]
      exact fun h => hf b (crcByte_injective_right (foldl_crcByte_injective bytes h))
    | succ k =>
      rw [List.modify_succ_cons]
      exact ih (Nat.lt_of_succ_lt_succ hk) _

/-! ### One flipped bit -/

theorem xor_bit_ne {j : Nat} (hj : j < 8) (b : Byte) : b ^^^ (1#8 <<< j) ≠ b := by
  have hBit : 1#8 <<< j ≠ 0#8 := by
    interval_cases j <;> decide
  intro h
  exact hBit ((BitVec.xor_right_inj b).1 (h.trans BitVec.xor_zero.symm))

/-- The trailer tells both its bytes. -/
theorem trailerOf_inj {xs ys : List Byte} (h : trailerOf xs = trailerOf ys) :
    xs.getD (xs.length - 1) 0#8 = ys.getD (ys.length - 1) 0#8
      ∧ xs.getD (xs.length - 2) 0#8 = ys.getD (ys.length - 2) 0#8 := by
  have hHi := congrArg hiByte h
  have hLo := congrArg loByte h
  simp only [trailerOf, hiByte_joinBytes, loByte_joinBytes] at hHi hLo
  exact ⟨hHi, hLo⟩

/-- A frame whose recomputed CRC is its trailer is no such frame with one bit flipped: a bit of the body changes the
CRC and leaves the trailer, a bit of the trailer does the reverse (R121, R129). -/
theorem crc16_flipBit_ne_trailerOf {frame : List Byte} (hLen : 2 ≤ frame.length)
    (hCrc : crc16 (frame.take (frame.length - 2)) = trailerOf frame) {k j : Nat} (hk : k < frame.length) (hj : j < 8) :
    crc16 ((flipBit frame k j).take (frame.length - 2)) ≠ trailerOf (flipBit frame k j) := by
  have hSame : (flipBit frame k j).length = frame.length := List.length_modify _ _ _
  have hGet : ∀ i, (flipBit frame k j).getD i 0#8
      = ((fun b => if k = i then b ^^^ (1#8 <<< j) else b) <$> frame[i]?).getD 0#8 := by
    intro i
    rw [List.getD_eq_getElem?_getD, flipBit, List.getElem?_modify]
  have hTake : (flipBit frame k j).take (frame.length - 2)
      = (frame.take (frame.length - 2)).modify k (fun b => b ^^^ (1#8 <<< j)) := List.take_modify _ _ _ _
  rw [hTake]
  by_cases hBody : k < frame.length - 2
  · have hTrailer : trailerOf (flipBit frame k j) = trailerOf frame := by
      unfold trailerOf
      rw [hSame, hGet, hGet]
      simp [show k ≠ frame.length - 1 by omega, show k ≠ frame.length - 2 by omega, List.getD_eq_getElem?_getD]
    rw [hTrailer, ← hCrc]
    exact foldl_crcByte_modify_ne (xor_bit_ne hj) (by rw [List.length_take]; omega) _
  · rw [List.modify_eq_self (by rw [List.length_take]; omega), hCrc]
    intro h
    obtain ⟨hHi, hLo⟩ := trailerOf_inj h
    rw [hSame, hGet] at hHi hLo
    have hFlipped : frame.getD k 0#8 = frame.getD k 0#8 ^^^ (1#8 <<< j) := by
      rcases (by omega : k = frame.length - 1 ∨ k = frame.length - 2) with rfl | rfl
      · simpa [hk, List.getD_eq_getElem?_getD] using hHi
      · simpa [hk, List.getD_eq_getElem?_getD] using hLo
    exact xor_bit_ne hj _ hFlipped.symm

/-- The two bytes behind the body are its CRC, low byte first (R98). -/
theorem trailerOf_withTrailer (bytes : List Byte) : trailerOf (withTrailer bytes) = crc16 bytes := by
  have hLen : (withTrailer bytes).length = bytes.length + 2 := by simp [withTrailer]
  rw [trailerOf, hLen, withTrailer]
  simp

/-- Settles O11: the residue, and the flip in a frame made with its own CRC. -/
theorem crcResidueAndSingleBit : Obligations.CrcResidueAndSingleBit := by
  unfold Obligations.CrcResidueAndSingleBit
  refine ⟨crc16_withTrailer, fun bytes k j hk hj => ?_⟩
  have hLen : (withTrailer bytes).length = bytes.length + 2 := by simp [withTrailer]
  have hBody : (withTrailer bytes).take bytes.length = bytes := List.take_left' rfl
  have hFlip := crc16_flipBit_ne_trailerOf (frame := withTrailer bytes) (by omega)
    (by rw [hLen, Nat.add_sub_cancel, hBody, trailerOf_withTrailer]) (hLen ▸ hk) hj
  rwa [hLen, Nat.add_sub_cancel] at hFlip

end Sys2Proof.Machine
end

section
/-! The atomic commands end in their step; what PARSE makes of a frame that is sound, of one with a bit flipped, and of
a count that no frame can hold (20_memory.md R66; 40_frame_codec.md R124 to R129). -/

namespace Sys2Proof.Machine

open Safety

/-! ### The atomic commands -/

/-- While RXBUF can hold the frame, every command's rule answers a next state, and all but EXCHANGE and XFER end with
`finish` (R66). -/
theorem CommandRule.answers {w : Word} {body : State → Result} (hr : CommandRule w body) {s : State}
    (hLen : s.rxLen.toNat ≤ rxBufSize) :
    (∃ u, body s = .next (finish u)) ∨ ((w = 0x00000004#32 ∨ w = 0x00000008#32) ∧ ∃ t, body s = .next t) := by
  cases hr with
  | openPort =>
    rcases openBody_cases (phyPresentNow s) (samplePhy s) with ⟨-, e⟩ | ⟨-, -, e⟩ | ⟨-, -, -, e⟩ | ⟨-, -, -, e⟩ <;>
      exact .inl ⟨_, e⟩
  | closePort => exact .inl ⟨_, rfl⟩
  | build => rcases buildBody_cases s with ⟨-, e⟩ | ⟨-, e⟩ <;> exact .inl ⟨_, e⟩
  | exchange =>
    rcases exchangeBody_cases s with ⟨-, e⟩ | ⟨-, -, e⟩ | ⟨-, -, e⟩ <;> exact .inr ⟨.inl rfl, _, e⟩
  | parse =>
    obtain ⟨crc, ⟨error, e⟩ | ⟨-, e⟩⟩ := parseBody_ends hLen <;> exact .inl ⟨_, e⟩
  | decode => rcases decodeBody_cases s with ⟨-, e⟩ | ⟨-, e⟩ <;> exact .inl ⟨_, e⟩
  | crc => exact .inl ⟨_, crcBody_of_le hLen⟩
  | xfer =>
    rcases xferBody_cases s with ⟨-, e⟩ | ⟨-, -, e⟩ | ⟨-, -, e⟩ <;> exact .inr ⟨.inr rfl, _, e⟩
  | illegal _ => exact .inl ⟨_, rfl⟩

/-- The word of an atomic command is neither EXCHANGE's nor XFER's (R94). -/
theorem word_of_atomicCommand {i : Instr} (ha : atomicCommand i = true) :
    ∃ w, Sys2Proof.decode (.command w) = .ok i ∧ ¬ (w = 0x00000004#32 ∨ w = 0x00000008#32) := by
  cases i with
  | openPort => exact ⟨1#32, rfl, by decide⟩
  | closePort => exact ⟨2#32, rfl, by decide⟩
  | build => exact ⟨3#32, rfl, by decide⟩
  | parse => exact ⟨5#32, rfl, by decide⟩
  | decode => exact ⟨6#32, rfl, by decide⟩
  | crc => exact ⟨7#32, rfl, by decide⟩
  | _ => cases ha

/-- Settles O21: the rule of an atomic command ends with `finish`, which reports the end and tells ERR from ERROR.CODE.
-/
theorem atomicCommandsFinishInTheirStep : Obligations.AtomicCommandsFinishInTheirStep := by
  unfold Obligations.AtomicCommandsFinishInTheirStep
  intro i s ha hp hLen
  obtain ⟨w, hw, hAtomic⟩ := word_of_atomicCommand ha
  obtain ⟨body, hr, hrun⟩ := exists_commandRule w
  rcases hr.answers (s := accept (opField w) s) hLen with ⟨u, e⟩ | ⟨hExchange, -⟩
  · rw [exec_eq_runCommand hw, hrun, issue_idle hp]
    exact ⟨_, e, finish_phase u, finish_done u, finish_err u⟩
  · exact absurd hExchange hAtomic

/-- Settles O18: a PARSE that accepts has a REG_COUNT of at most 127. -/
theorem countsAbove127NeverParse : Obligations.CountsAbove127NeverParse := by
  unfold Obligations.CountsAbove127NeverParse
  intro s t hp hCount h
  rw [exec_parse_idle hp] at h
  obtain ⟨-, -, -, -, -, ⟨hErr, hCode, hN, hMem, hHdr⟩ | ⟨-, hFew, -⟩⟩ := parseBody_frame h
  · exact ⟨hErr, hCode, hN, hMem, hHdr⟩
  · rw [accept_regCount] at hFew
    omega

/-! ### The frame in RXBUF as a list -/

theorem length_rxFrame (s : State) (m : Nat) : (rxFrame s m).length = m := by simp [rxFrame]

theorem getElem?_rxFrame (s : State) {m k : Nat} (hk : k < m) : (rxFrame s m)[k]? = some (rxBuf s k) := by
  simp [rxFrame, hk]

/-- A shorter frame is the front of a longer one. -/
theorem take_rxFrame (s : State) {m n : Nat} (h : n ≤ m) : (rxFrame s m).take n = rxFrame s n := by
  rw [rxFrame, rxFrame, ← List.map_take, List.take_range, Nat.min_eq_left h]

/-- The trailer PARSE reads is that of the frame (R98). -/
theorem trailerOf_rxFrame (s : State) {m : Nat} (h : 2 ≤ m) : trailerOf (rxFrame s m) = trailer s m := by
  rw [trailerOf, trailer, length_rxFrame, List.getD_eq_getElem?_getD, List.getD_eq_getElem?_getD,
    getElem?_rxFrame s (by omega), getElem?_rxFrame s (by omega)]
  rfl

/-- A frame with its own trailer in RXBUF: PARSE recomputes the CRC of its body and finds it in the trailer. -/
theorem crc_of_withTrailer {s : State} {body : List Byte} (hFrame : rxFrame s s.rxLen.toNat = withTrailer body) :
    s.rxLen.toNat = body.length + 2 ∧ crc16 (rxFrame s (s.rxLen.toNat - 2)) = crc16 body
      ∧ trailer s s.rxLen.toNat = crc16 body := by
  have hLen : s.rxLen.toNat = body.length + 2 := by
    rw [← length_rxFrame s s.rxLen.toNat, hFrame]
    simp [withTrailer]
  refine ⟨hLen, ?_, ?_⟩
  · rw [← take_rxFrame s (Nat.sub_le _ 2), hFrame, hLen, Nat.add_sub_cancel]
    exact congrArg crc16 (List.take_left' rfl)
  · rw [← trailerOf_rxFrame s (by omega), hFrame, trailerOf_withTrailer]

/-- The bytes of such a frame's body. -/
theorem rxBuf_of_withTrailer {s : State} {body : List Byte} (hFrame : rxFrame s s.rxLen.toNat = withTrailer body)
    {k : Nat} (hk : k < body.length) : some (rxBuf s k) = body[k]? := by
  obtain ⟨hLen, -, -⟩ := crc_of_withTrailer hFrame
  rw [← getElem?_rxFrame s (show k < s.rxLen.toNat by omega), hFrame, withTrailer, List.getElem?_append_left hk]

/-! ### The payload -/

theorem length_payloadBytes (values : List Half) : (payloadBytes values).length = 2 * values.length := by
  induction values with
  | nil => rfl
  | cons v vs ih =>
    rw [payloadBytes, List.length_cons, List.length_cons, ih, List.length_cons]
    omega

/-- Register `i` of a payload stands in its bytes `2i` and `2i + 1`, high byte first (R96). -/
theorem getElem?_payloadBytes (values : List Half) (i : Nat) :
    (payloadBytes values)[2 * i]? = values[i]?.map hiByte
      ∧ (payloadBytes values)[2 * i + 1]? = values[i]?.map loByte := by
  induction values generalizing i with
  | nil => exact ⟨rfl, rfl⟩
  | cons v vs ih =>
    cases i with
    | zero => exact ⟨rfl, rfl⟩
    | succ i => exact ih i

/-! ### A sound response -/

/-- A response body: the slave, a function byte, the byte count and the payload (R96). -/
def responseBodyWith (slave func : Byte) (values : List Half) : List Byte :=
  slave :: func :: BitVec.ofNat 8 (2 * values.length) :: payloadBytes values

theorem length_responseBodyWith (slave func : Byte) (values : List Half) :
    (responseBodyWith slave func values).length = 3 + 2 * values.length := by
  rw [responseBodyWith, List.length_cons, List.length_cons, List.length_cons, length_payloadBytes]
  omega

/-- RXBUF holds a sound response of the slave addressed with the values asked for, under a function byte without bit 7.
-/
structure HoldsResponse (s : State) (func : Byte) (values : List Half) : Prop where
  frame : rxFrame s s.rxLen.toNat = withTrailer (responseBodyWith s.slaveAddr func values)
  normal : func.getLsbD 7 = false
  fits : values.length ≤ 127
  count : s.regCount.toNat = values.length

section
variable {s : State} {func : Byte} {values : List Half}

theorem HoldsResponse.rxLen (h : HoldsResponse s func values) : s.rxLen.toNat = 5 + 2 * values.length := by
  obtain ⟨hLen, -, -⟩ := crc_of_withTrailer h.frame
  rw [length_responseBodyWith] at hLen
  omega

theorem HoldsResponse.header (h : HoldsResponse s func values) :
    rxBuf s 0 = s.slaveAddr ∧ rxBuf s 1 = func ∧ rxBuf s 2 = BitVec.ofNat 8 (2 * values.length) := by
  have hByte : ∀ k, k < 3 → some (rxBuf s k) = (responseBodyWith s.slaveAddr func values)[k]? :=
    fun k hk => rxBuf_of_withTrailer h.frame (by rw [length_responseBodyWith]; omega)
  exact ⟨Option.some.inj (hByte 0 (by decide)), Option.some.inj (hByte 1 (by decide)),
    Option.some.inj (hByte 2 (by decide))⟩

/-- The registers PARSE reads out of it are the values (R96, R124). -/
theorem HoldsResponse.responseRegs (h : HoldsResponse s func values) : responseRegs s = values := by
  apply List.ext_getElem?
  intro i
  by_cases hi : i < values.length
  · have hByte : ∀ k, k < 2 * values.length → some (rxBuf s (3 + k)) = (payloadBytes values)[k]? := by
      intro k hk
      rw [rxBuf_of_withTrailer h.frame (by rw [length_responseBodyWith]; omega), Nat.add_comm 3 k]
      rfl
    obtain ⟨hHi, hLo⟩ := getElem?_payloadBytes values i
    rw [List.getElem?_eq_getElem hi, ← hByte _ (by omega)] at hHi hLo
    have hReg : responseReg s i = values[i] := by
      rw [responseReg, Option.some.inj hHi, show 4 + 2 * i = 3 + (2 * i + 1) by omega, Option.some.inj hLo,
        joinBytes_hi_lo]
    rw [Machine.responseRegs, List.getElem?_map, List.getElem?_range (h.count ▸ hi), List.getElem?_eq_getElem hi]
    exact congrArg some hReg
  · rw [List.getElem?_eq_none (by rw [length_responseRegs, h.count]; omega), List.getElem?_eq_none (by omega)]

/-- PARSE accepts it, and CRC_RESULT is the CRC of its body (R43, R124). -/
theorem HoldsResponse.parseBody (h : HoldsResponse s func values) :
    parseBody s = .next (parseAccept { s with crcResult := crc16 (responseBodyWith s.slaveAddr func values) }) := by
  obtain ⟨-, hCrc, hTrailer⟩ := crc_of_withTrailer h.frame
  obtain ⟨hAddr, hFunc, hCount⟩ := h.header
  have hLen := h.rxLen
  have hFits := h.fits
  have hNat : (rxBuf s 2).toNat = 2 * s.regCount.toNat := by
    rw [hCount, h.count, BitVec.toNat_ofNat]
    omega
  have hNormal : (rxBuf s 1).getLsbD 7 = false := by rw [hFunc]; exact h.normal
  have hMax : s.rxLen.toNat ≤ rxBufSize := by unfold rxBufSize; omega
  have hRoom : 5 + 2 * s.regCount.toNat ≤ s.rxLen.toNat := by rw [h.count]; omega
  rw [parseBody_of_crc_eq (by omega) hMax (hCrc.trans hTrailer.symm),
    parseHeader_of_accepted (s := withCrcResult s) hAddr hNormal hNat hRoom, withCrcResult, hCrc]

/-- After that PARSE, REGVAL holds the values in order (R124, R128). -/
theorem HoldsResponse.regVals (h : HoldsResponse s func values) (crc : Half) :
    (List.range values.length).map (regVal (parseAccept { s with crcResult := crc })) = values := by
  refine Eq.trans (List.map_congr_left fun i hi => ?_) ((congrArg (fun n => (List.range n).map (responseReg s))
    h.count.symm).trans h.responseRegs)
  exact regVal_parseAccept (s := { s with crcResult := crc }) (h.count ▸ List.mem_range.1 hi)

/-- REG_N after that PARSE is the number of the values (R46, R124). -/
theorem HoldsResponse.regN (h : HoldsResponse s func values) :
    s.regCount.extractLsb' 0 8 = BitVec.ofNat 8 values.length := by
  apply BitVec.eq_of_toNat_eq
  rw [BitVec.extractLsb'_toNat, Nat.shiftRight_zero, h.count, BitVec.toNat_ofNat]

end

/-- Settles O22: the accepted state holds the sound response that the state before it holds. -/
theorem parseRoundTrip : Obligations.ParseRoundTrip := by
  unfold Obligations.ParseRoundTrip
  intro s values hp _ hFits hCount _ hFrame
  have h : HoldsResponse (accept 5#4 s) 0x03#8 values := ⟨hFrame, by decide, hFits, hCount⟩
  have hRegN : (parseAccept { accept 5#4 s with
      crcResult := crc16 (responseBodyWith s.slaveAddr 0x03#8 values) }).regN.toNat = values.length := by
    refine (congrArg BitVec.toNat h.regN).trans ?_
    rw [BitVec.toNat_ofNat]
    omega
  exact ⟨_, (exec_parse_idle hp).trans h.parseBody, rfl, rfl, hRegN, h.regVals _⟩

/-! ### One flipped bit -/

/-- RXBUF with one entry rewritten. -/
theorem rxFrame_write (s : State) (k m : Nat) (f : Byte → Byte) :
    rxFrame { s with mem := s.mem.write (rxAddr k) (f (rxBuf s k)) } m = (rxFrame s m).modify k f := by
  apply List.ext_getElem?
  intro i
  rw [List.getElem?_modify]
  by_cases hi : i < m
  · rw [getElem?_rxFrame _ hi, getElem?_rxFrame _ hi]
    by_cases hk : k = i
    · subst hk
      simp [rxBuf, peek]
    · have hSame : rxBuf { s with mem := s.mem.write (rxAddr k) (f (rxBuf s k)) } i = rxBuf s i :=
        peek_congr (Memory.read_write_other _ _ (rxAddr_ne i k (Ne.symm hk))) rfl
      simp [hk, hSame]
  · rw [List.getElem?_eq_none (by rw [length_rxFrame]; omega), List.getElem?_eq_none (by rw [length_rxFrame]; omega)]
    rfl

/-- Settles O23: the flipped frame's CRC is not its trailer, so PARSE stops at check (2). -/
theorem singleBitFlipIsCrcMismatch : Obligations.SingleBitFlipIsCrcMismatch := by
  unfold Obligations.SingleBitFlipIsCrcMismatch
  intro s k j hp h₅ hMax hCrc hk hj
  generalize hu : ({ s with mem := s.mem.write (rxAddr k) (rxBuf s k ^^^ (1#8 <<< j)) } : State) = u
  have hFlipped : ∀ m, rxFrame u m = flipBit (rxFrame s m) k j := by
    intro m
    rw [← hu]
    exact rxFrame_write s k m fun b => b ^^^ (1#8 <<< j)
  have hPhase : u.phase = .idle := by rw [← hu]; exact hp
  have hLen : u.rxLen = s.rxLen := by rw [← hu]
  have hSound : crc16 ((rxFrame s s.rxLen.toNat).take (s.rxLen.toNat - 2)) = trailerOf (rxFrame s s.rxLen.toNat) := by
    rw [take_rxFrame s (Nat.sub_le _ 2), trailerOf_rxFrame s (by omega)]
    exact hCrc
  have hFlip := crc16_flipBit_ne_trailerOf (frame := rxFrame s s.rxLen.toNat) (by rw [length_rxFrame]; omega)
    (by rw [length_rxFrame]; exact hSound) (by rw [length_rxFrame]; exact hk) hj
  rw [length_rxFrame, ← hFlipped, take_rxFrame u (Nat.sub_le _ 2), trailerOf_rxFrame u (by omega), ← hLen] at hFlip
  exact ⟨_, (exec_parse_idle hPhase).trans
    (parseBody_of_crc_ne (s := accept 5#4 u) (hLen ▸ h₅) (hLen ▸ hMax) hFlip), rfl, rfl, rfl⟩

end Sys2Proof.Machine
end

section
/-! The wire frames: the request that leaves, the bytes that are dropped, the responses that end an exchange, and a
frame as its bytes (30_encoding.md R95 to R104; 41_transport.md R165 to R175; 43_xfer.md R231). -/

namespace Sys2Proof.Machine

open Safety

/-! ### The request on offer -/

/-- TXBUF holds these bytes exactly when it reads as them, entry by entry. -/
theorem txBufHolds_iff (s : State) (i : Nat) (bytes : List Byte) :
    txBufHolds s i bytes = true ↔ ∀ k, k < bytes.length → s.mem.read (txAddr (i + k)) = bytes[k]? := by
  induction bytes generalizing i with
  | nil => simp [txBufHolds]
  | cons b bs ih =>
    rw [txBufHolds, Bool.and_eq_true, decide_eq_true_eq, ih]
    constructor
    · rintro ⟨h0, hRest⟩ k hk
      cases k with
      | zero => exact h0
      | succ k =>
        rw [List.getElem?_cons_succ, ← hRest k (Nat.lt_of_succ_lt_succ hk)]
        congr 2
        omega
    · intro h
      refine ⟨h 0 (Nat.succ_pos _), fun k hk => ?_⟩
      rw [← List.getElem?_cons_succ (a := b), ← h (k + 1) (Nat.succ_lt_succ hk)]
      congr 2
      omega

/-- What is on offer is told by the phase, the request's fields and TXBUF, not by the script. -/
theorem offersFrame_withInput (items : List Input) (s : State) (bytes : List Byte) :
    offersFrame (withInput items s) bytes = offersFrame s bytes := by
  have hHolds : txBufHolds (withInput items s) 0 bytes = txBufHolds s 0 bytes :=
    Bool.eq_iff_iff.2 ((txBufHolds_iff _ 0 bytes).trans (txBufHolds_iff s 0 bytes).symm)
  rw [offersFrame, hHolds]
  rfl

/-- A TxAccept while a byte is on offer (R165). -/
theorem txAccept_of_room {s : State} (hp : s.phase = .tx) (hIdx : s.txIdx < s.txLen.toNat) :
    txAccept s = .next (sendByte s) := by
  rcases txAccept_cases s with ⟨h, -⟩ | ⟨-, -, e⟩ | ⟨-, h, -⟩
  · exact absurd hp h
  · exact e
  · exact absurd hIdx (Nat.not_lt.2 h)

/-- It takes that byte; after the last one reception starts (R165). -/
theorem txAccept_of_offered {s : State} {b : Byte} (hp : s.phase = .tx) (hIdx : s.txIdx < s.txLen.toNat)
    (hRead : s.mem.read (txAddr s.txIdx) = some b) :
    txAccept s = .next { s with
      wireOut := s.wireOut ++ [b], txIdx := s.txIdx + 1
      phase := if s.txIdx + 1 = s.txLen.toNat then .rx else .tx } := by
  rw [txAccept_of_room hp hIdx, sendByte, txData, txBuf, peek_of_read hRead, hp]

/-- Settles O30. -/
theorem txAcceptTakesByteOnOffer : Obligations.TxAcceptTakesByteOnOffer := by
  unfold Obligations.TxAcceptTakesByteOnOffer
  intro s b hp hIdx hRead
  refine ⟨?_, peek_of_read hRead, txAccept_of_offered hp hIdx hRead⟩
  simp only [txValid, hp, hIdx, decide_true, Bool.and_self]

/-- The bytes of the request still to send go out in index order, one TxAccept each; with the last one reception starts
(R165, R68). -/
theorem txAccepts_sent {s : State} (bytes : List Byte) (hp : s.phase = .tx)
    (hLen : s.txIdx + bytes.length = s.txLen.toNat)
    (hRead : ∀ k, k < bytes.length → s.mem.read (txAddr (s.txIdx + k)) = bytes[k]?) :
    txAccepts bytes.length s = .next { s with
      phase := if bytes = [] then .tx else .rx
      txIdx := s.txIdx + bytes.length
      wireOut := s.wireOut ++ bytes
      draws := s.draws + bytes.length } := by
  induction bytes generalizing s with
  | nil => simp only [List.length_nil, txAccepts, Nat.add_zero, List.append_nil, if_true, ← hp]
  | cons b bs ih =>
    rw [List.length_cons] at hLen
    rw [List.length_cons, txAccepts_succ,
      txAccept_of_offered (s := nextDraw s) hp (show s.txIdx < s.txLen.toNat by omega) (hRead 0 (Nat.succ_pos _)),
      andThen_next]
    by_cases hLast : bs = []
    · subst hLast
      rw [if_pos (show (nextDraw s).txIdx + 1 = (nextDraw s).txLen.toNat from hLen)]
      rfl
    · have hMore : (nextDraw s).txIdx + 1 ≠ (nextDraw s).txLen.toNat := by
        have hPos := List.length_pos_of_ne_nil hLast
        rw [nextDraw_txIdx, nextDraw_txLen]
        omega
      rw [if_neg hMore, ih rfl (show s.txIdx + 1 + bs.length = s.txLen.toNat by omega) fun k hk => ?_]
      · simp only [nextDraw, hLast, List.append_assoc, List.singleton_append, reduceCtorEq, if_false, Nat.add_assoc,
          Nat.add_comm 1]
      · change s.mem.read (txAddr (s.txIdx + 1 + k)) = bs[k]?
        rw [show s.txIdx + 1 + k = s.txIdx + (k + 1) by omega]
        exact hRead (k + 1) (Nat.succ_lt_succ hk)

/-- Settles O24: the instruction's TxAccept and the seven that follow are the eight bytes of the request sent. -/
theorem requestOnOfferIsSent : Obligations.RequestOnOfferIsSent := by
  unfold Obligations.RequestOnOfferIsSent
  intro s slave start count check hp hIdx hLen hRead
  generalize hf : requestFrame slave start count check = frame at hRead
  have hEight : frame.length = 8 := by rw [← hf]; rfl
  have hRead' : ∀ k, k < frame.length → s.mem.read (txAddr (0 + k)) = frame[k]? := by
    intro k hk
    rw [Nat.zero_add]
    exact hRead k (hEight ▸ hk)
  have hOffers : offersFrame s frame = true := by
    simp only [offersFrame, hp, hIdx, hLen, hEight, (txBufHolds_iff s 0 frame).2 hRead', decide_true, Bool.and_self,
      BitVec.toNat_ofNat, Nat.reducePow, Nat.reduceMod]
  have hSent := txAccepts_sent (s := s) frame hp (by rw [hIdx, hLen, hEight]; rfl) (by rw [hIdx]; exact hRead')
  rw [hEight, hIdx, if_neg (List.ne_nil_of_length_pos (by omega))] at hSent
  obtain ⟨u, hExec, hFirst, hRun⟩ := acceptBytes_run hSent
  have hByte : (nextDraw s).mem.read (txAddr (nextDraw s).txIdx) = some slave := by
    rw [nextDraw_txIdx, hIdx, nextDraw_mem, hRead 0 (by decide), ← hf]
    rfl
  rw [txAccept_of_offered (s := nextDraw s) hp (by rw [nextDraw_txIdx, nextDraw_txLen, hIdx, hLen]; decide) hByte]
    at hFirst
  cases hFirst
  refine ⟨_, ?_, ?_, hRun⟩
  · simp only [exec, execReqReadHolding, hf, hOffers, if_true, hEight]
    exact hExec
  · simp only [withInput, nextDraw, hIdx, hLen, hp]
    rfl

/-! ### Frames that are dropped -/

/-- Bytes that arrive outside the RX phase change nothing but draws: the first in the instruction's step, the others in
the steps that follow (R171). -/
theorem receiveBytes_dropped (b : Byte) (bs : List Byte) {s : State} (hp : s.phase ≠ .rx) :
    ∃ t, receiveBytes (b :: bs) s = .next t ∧ t = { s with draws := s.draws + 1, input := t.input }
      ∧ Host.Core.run Sys2Proof.core bs.length t = .next { s with draws := s.draws + (bs.length + 1) } := by
  obtain ⟨u, hExec, hFirst, hRun⟩ := receiveBytes_run (rxBytes_dropped (b :: bs) hp)
  rw [rxByte_of_not_rx (s := nextDraw s) hp] at hFirst
  cases hFirst
  exact ⟨_, hExec, rfl, hRun⟩

/-- A request that is not on offer arrives at the receiver (log 3). -/
theorem execReqReadHolding_of_not_offered {slave : Byte} {start count check : Half} {s : State}
    (h : offersFrame s (requestFrame slave start count check) = false) :
    execReqReadHolding slave start count check s = receiveBytes (requestFrame slave start count check) s := by
  simp only [execReqReadHolding, h, Bool.false_eq_true, if_false]

/-- Settles O25: the three frames by what is dropped of their bytes. -/
theorem framesOutsideReceptionAreDropped : Obligations.FramesOutsideReceptionAreDropped := by
  unfold Obligations.FramesOutsideReceptionAreDropped
  refine ⟨fun s slave func byteCount payload check hp => ?_, fun s slave func code check hp => ?_,
    fun s slave start count check hp hOffer => ?_⟩
  · have hDropped := receiveBytes_dropped slave
      ((0#1 ++ func) :: byteCount :: (payload ++ [loByte check, hiByte check])) hp
    simp only [List.length_cons, List.length_append, List.length_nil, Nat.add_assoc, Nat.reduceAdd] at hDropped
    exact hDropped
  · exact receiveBytes_dropped slave [1#1 ++ func, code, loByte check, hiByte check] hp
  · rw [exec, execReqReadHolding_of_not_offered hOffer]
    exact receiveBytes_dropped slave [0x03#8, hiByte start, loByte start, hiByte count, loByte count, loByte check,
      hiByte check] hp

/-! ### A response that ends an exchange -/

/-- No byte alone completes a frame (R169). -/
theorem frameComplete_one (s : State) : frameComplete s 1 = false := rfl

/-- The first byte of a response into an empty RXBUF is stored (R168). -/
theorem rxByte_first {s : State} (hp : s.phase = .rx) (h0 : s.rxLen = 0#9) (b : Byte) :
    rxByte b false s = .next (storeRxByte b s) := by
  have hNone : s.rxLen.toNat = 0 := by rw [h0]; rfl
  rw [rxByte_of_room hp (by rw [hNone]; decide), hNone, frameComplete_one, if_neg Bool.false_ne_true]

/-- A whole response into an empty RXBUF: its first byte in the instruction's step, and its last byte ends the frame
(R168, R169, R175). -/
theorem receiveBytes_response {bytes : List Byte} {s t : State} (hp : s.phase = .rx) (h0 : s.rxLen = 0#9)
    (hLen : bytes.length = responseLength bytes) (hDone : frameDone (storeRxBytes bytes s) = .next t) :
    ∃ u, receiveBytes bytes s = .next u ∧ firstByteReceived bytes s u
      ∧ Host.Core.run Sys2Proof.core (bytes.length - 1) u = .next t := by
  have hAll : rxBytes bytes s = .next t := (rxBytes_response bytes hp h0 hLen).trans hDone
  cases bytes with
  | nil => cases hLen
  | cons b bs =>
    obtain ⟨u, hExec, hFirst, hRun⟩ := receiveBytes_run hAll
    rw [rxByte_first (s := nextDraw s) hp h0] at hFirst
    cases hFirst
    refine ⟨_, hExec, ⟨?_, ?_, fun a ha => ?_⟩, hRun⟩
    · simp only [withInput, storeRxByte, nextDraw, h0]
      rfl
    · simp [withInput, h0]
    · have hOther : a ≠ rxAddr (nextDraw s).rxLen.toNat := by
        rw [nextDraw_rxLen, h0]
        exact ha
      exact Memory.read_write_other s.mem b hOther

/-- A response stored whole in an empty RXBUF: RX_LEN is its length, it is what RXBUF holds, and nothing else changed
but the draws (R168). -/
theorem storeRxBytes_empty {bytes : List Byte} {s : State} (h0 : s.rxLen = 0#9) (hLen : bytes.length ≤ rxBufSize) :
    storeRxBytes bytes s = { s with
        rxLen := BitVec.ofNat 9 bytes.length, draws := s.draws + bytes.length, mem := (storeRxBytes bytes s).mem }
      ∧ (∀ k, k < bytes.length → (storeRxBytes bytes s).mem.read (rxAddr k) = bytes[k]?)
      ∧ ∀ a, (∀ k, k < bytes.length → a ≠ rxAddr k) → (storeRxBytes bytes s).mem.read a = s.mem.read a := by
  have hNone : s.rxLen.toNat = 0 := by rw [h0]; rfl
  have hSpec := storeRxBytes_spec bytes (s := s) (by rwa [hNone, Nat.zero_add])
  simpa only [hNone, Nat.zero_add] using hSpec

/-- The frame as the rules read it from there. -/
theorem rxFrame_storeRxBytes {bytes : List Byte} {s : State} (h0 : s.rxLen = 0#9) (hLen : bytes.length ≤ rxBufSize) :
    (storeRxBytes bytes s).rxLen.toNat = bytes.length
      ∧ rxFrame (storeRxBytes bytes s) (storeRxBytes bytes s).rxLen.toNat = bytes := by
  obtain ⟨hState, hRead, -⟩ := storeRxBytes_empty h0 hLen
  have hRxLen : (storeRxBytes bytes s).rxLen.toNat = bytes.length := by
    rw [hState, BitVec.toNat_ofNat]
    unfold rxBufSize at hLen
    omega
  refine ⟨hRxLen, ?_⟩
  rw [hRxLen]
  apply List.ext_getElem?
  intro k
  by_cases hk : k < bytes.length
  · have hByte := hRead k hk
    rw [List.getElem?_eq_getElem hk] at hByte ⊢
    rw [getElem?_rxFrame _ hk, rxBuf, peek_of_read hByte]
  · rw [List.getElem?_eq_none (by rw [length_rxFrame]; omega), List.getElem?_eq_none (by omega)]

/-- No response is longer than RXBUF (R45, R100). -/
theorem responseLength_le (bytes : List Byte) : responseLength bytes ≤ rxBufSize := by
  unfold responseLength rxBufSize
  split
  · next b _ =>
    have hByte := b.isLt
    split <;> omega
  · decide

/-- A normal response is as long as its header says when its payload is (R96, R100). -/
theorem length_responseFrame (slave : Byte) (func : BitVec 7) {byteCount : Byte} {payload : List Byte} (check : Half)
    (h : payload.length = byteCount.toNat) :
    (responseFrame slave func byteCount payload check).length
      = responseLength (responseFrame slave func byteCount payload check) := by
  obtain ⟨hBit, -⟩ := normalFunction func
  have hBit' : ¬ (0#1 ++ func).getLsbD 7 = true := by rw [hBit]; exact Bool.false_ne_true
  unfold responseFrame
  rw [responseLength_cons, if_neg hBit']
  simp only [List.length_cons, List.length_append, List.length_nil, h]
  omega

/-- An exception frame has five bytes (R97, R100). -/
theorem length_exceptionFrame (slave : Byte) (func : BitVec 7) (code : Byte) (check : Half) :
    (exceptionFrame slave func code check).length = responseLength (exceptionFrame slave func code check) := by
  obtain ⟨hBit, -⟩ := exceptionFunction func
  unfold exceptionFrame
  rw [responseLength_cons, if_pos hBit]
  rfl

/-- The instruction of a response frame receives its bytes, as many as its header says. -/
theorem exec_of_response {i : Instr} {bytes : List Byte} (he : encode i = .frame .response bytes)
    (hLengths : i.lengthsAgree = true) :
    (∀ s, exec i s = receiveBytes bytes s) ∧ bytes.length = responseLength bytes := by
  cases i with
  | respReadHolding slave func byteCount payload check =>
    cases he
    exact ⟨fun _ => rfl, length_responseFrame slave func check (by simpa [Instr.lengthsAgree] using hLengths)⟩
  | respException slave func code check =>
    cases he
    exact ⟨fun _ => rfl, length_exceptionFrame slave func code check⟩
  | _ => cases he

/-- Settles O26: the last byte completes the frame, and `frame_done` of an EXCHANGE finishes. -/
theorem responseEndsExchange : Obligations.ResponseEndsExchange := by
  unfold Obligations.ResponseEndsExchange
  intro s i bytes he hLengths hp h0 hOp hCode
  obtain ⟨hExec, hLen⟩ := exec_of_response he hLengths
  obtain ⟨hState, hRead, hOther⟩ := storeRxBytes_empty h0 (hLen ▸ responseLength_le bytes)
  have hNotXfer : (storeRxBytes bytes s).lastOp ≠ 8#4 := by
    rw [hState]
    exact fun h => absurd (hOp.symm.trans h) (by decide)
  obtain ⟨u, hFirst, hReceived, hRun⟩ := receiveBytes_response hp h0 hLen (frameDone_of_not_xfer hNotXfer)
  refine ⟨u, _, (hExec s).trans hFirst, hReceived, hRun, ?_, hRead, hOther⟩
  rw [hState]
  simp only [finish, hCode, ne_eq, not_true_eq_false, decide_false]

/-! ### A response that ends an XFER -/

/-- Settles O27: RXBUF then holds a sound response, which the PARSE of `frame_done` accepts. -/
theorem soundResponseEndsXfer : Obligations.SoundResponseEndsXfer := by
  unfold Obligations.SoundResponseEndsXfer
  intro s values func hp h0 hOp hCode hFits hCount body
  have hCountByte : (payloadBytes values).length = (BitVec.ofNat 8 (2 * values.length)).toNat := by
    rw [length_payloadBytes, BitVec.toNat_ofNat]
    omega
  have hBodyLength : body.length = 3 + 2 * values.length := length_responseBodyWith s.slaveAddr (0#1 ++ func) values
  have hLength : (withTrailer body).length = 5 + 2 * values.length := by
    rw [withTrailer, List.length_append, hBodyLength]
    exact Nat.add_right_comm 3 _ 2
  have hResponse : (withTrailer body).length = responseLength (withTrailer body) :=
    length_responseFrame s.slaveAddr func (crc16 body) hCountByte
  have hMax : (withTrailer body).length ≤ rxBufSize := hResponse ▸ responseLength_le _
  obtain ⟨hState, hRead, hOther⟩ := storeRxBytes_empty h0 hMax
  obtain ⟨-, hFrame⟩ := rxFrame_storeRxBytes h0 hMax
  have hEnds := fun t => receiveBytes_response (t := t) hp h0 hResponse
  generalize storeRxBytes (withTrailer body) s = r at hState hRead hOther hFrame hEnds
  have hFixed : r.lastOp = 8#4 ∧ r.slaveAddr = s.slaveAddr ∧ r.regCount = s.regCount := by
    rw [hState]
    exact ⟨hOp, rfl, rfl⟩
  obtain ⟨hOpR, hAddrR, hCountR⟩ := hFixed
  have hHolds : HoldsResponse r (0#1 ++ func) values :=
    ⟨by rw [hAddrR]; exact hFrame, (normalFunction func).1, hFits, hCountR ▸ hCount⟩
  have hDone : frameDone r = .next (parseAccept { r with crcResult := crc16 body }) := by
    rw [frameDone_of_xfer hOpR, hHolds.parseBody, hAddrR]
    rfl
  obtain ⟨u, hFirst, hReceived, hRun⟩ := hEnds _ hDone
  obtain ⟨hByte₀, hByte₁, hByte₂⟩ := hHolds.header
  have hRegN := hHolds.regN
  rw [hLength] at hRead hOther hState
  have hKept : ∀ a, (∀ k, k < values.length → a ≠ regValAddr k ∧ a ≠ regValAddr k + 1) →
      (parseAccept { r with crcResult := crc16 body }).mem.read a = r.mem.read a := fun a ha =>
    parseAccept_read_other (s := { r with crcResult := crc16 body }) fun k hk =>
      ha k (by rw [← hCount, ← hCountR]; exact hk)
  refine ⟨u, parseAccept { r with crcResult := crc16 body }, hFirst, hReceived, ?_, ?_, hHolds.regVals _,
    fun k hk => ?_, fun a hRx hVal => ?_⟩
  · rw [hLength, show 5 + 2 * values.length - 1 = 4 + 2 * values.length by omega] at hRun
    exact hRun
  · have hHeader : rxBuf { r with crcResult := crc16 body } 2 ++ rxBuf { r with crcResult := crc16 body } 1
        ++ rxBuf { r with crcResult := crc16 body } 0
        = BitVec.ofNat 8 (2 * values.length) ++ (0#1 ++ func) ++ s.slaveAddr := by
      rw [← hAddrR, ← hByte₀, ← hByte₁, ← hByte₂]
      rfl
    simp only [parseAccept, finish, hHeader, hRegN]
    rw [hState]
    simp only [hCode, ne_eq, not_true_eq_false, decide_false]
  · rw [hKept _ fun i hi => (regValAddr_ne_rxAddr (Nat.lt_of_lt_of_le hi hFits) k).imp Ne.symm Ne.symm]
    exact hRead k hk
  · rw [hKept a hVal]
    exact hOther a hRx

/-- Settles O28: RXBUF then holds a sound exception frame, which fails check (4) of the PARSE of `frame_done`. -/
theorem exceptionEndsXfer : Obligations.ExceptionEndsXfer := by
  unfold Obligations.ExceptionEndsXfer
  intro s func code hp h0 hOp body
  have hResponse : (withTrailer body).length = responseLength (withTrailer body) :=
    length_exceptionFrame s.slaveAddr func code (crc16 body)
  have hMax : (withTrailer body).length ≤ rxBufSize := hResponse ▸ responseLength_le _
  obtain ⟨hState, hRead, hOther⟩ := storeRxBytes_empty h0 hMax
  obtain ⟨hLen, hFrame⟩ := rxFrame_storeRxBytes h0 hMax
  have hEnds := fun t => receiveBytes_response (t := t) hp h0 hResponse
  generalize storeRxBytes (withTrailer body) s = r at hState hRead hOther hFrame hLen hEnds
  have hFive : r.rxLen.toNat = 5 := hLen
  have hFixed : r.lastOp = 8#4 ∧ r.slaveAddr = s.slaveAddr := by
    rw [hState]
    exact ⟨hOp, rfl⟩
  obtain ⟨hOpR, hAddrR⟩ := hFixed
  obtain ⟨-, hCrc, hTrailer⟩ := crc_of_withTrailer hFrame
  have hByte : ∀ k, k < 3 → some (rxBuf r k) = body[k]? := fun k hk => rxBuf_of_withTrailer hFrame hk
  have hByte₀ : rxBuf r 0 = r.slaveAddr := hAddrR ▸ Option.some.inj (hByte 0 (by decide))
  have hByte₁ : rxBuf r 1 = 1#1 ++ func := Option.some.inj (hByte 1 (by decide))
  have hByte₂ : rxBuf r 2 = code := Option.some.inj (hByte 2 (by decide))
  have hBit : (rxBuf r 1).getLsbD 7 = true := by rw [hByte₁]; exact (exceptionFunction func).1
  have hDone : frameDone r = .next (parseFail (.exceptionResponse code) { r with crcResult := crc16 body }) := by
    rw [frameDone_of_xfer hOpR, parseBody_of_crc_eq (by omega) (by rw [hFive]; decide) (hCrc.trans hTrailer.symm),
      parseHeader_of_exception _ (s := withCrcResult r) hByte₀ hBit, withCrcResult, hCrc]
    exact congrArg (fun c => Host.Outcome.next (parseFail (.exceptionResponse c) _)) hByte₂
  obtain ⟨u, hFirst, hReceived, hRun⟩ := hEnds _ hDone
  refine ⟨u, _, hFirst, hReceived, hRun, ?_, hRead, hOther⟩
  rw [parseFail, raiseError_eq, hState]
  rfl

/-! ### A frame is its bytes -/

/-- A frame that is not the request on offer is received, whether it decodes or not (logs 2, 3, 19). -/
theorem runFrame_of_not_offered {kind : FrameKind} {bytes : List Byte} {s : State}
    (h : kind = .request → offersFrame s bytes = false) : runFrame kind bytes s = receiveBytes bytes s := by
  cases hd : Sys2Proof.decode (.frame kind bytes) with
  | error e => rw [runFrame, hd]
  | ok i =>
    rw [runFrame, hd]
    cases kind with
    | request =>
      obtain ⟨slave, start, count, check, rfl, rfl⟩ := eq_requestFrame_of_decodeRequest hd
      exact execReqReadHolding_of_not_offered (h rfl)
    | response =>
      rcases eq_frame_of_decodeResponse hd with ⟨slave, func, byteCount, payload, check, rfl, rfl, -⟩
        | ⟨slave, func, code, check, rfl, rfl⟩ <;> rfl

/-- The request on offer is taken by the PHY (R165). -/
theorem runFrame_of_offered {bytes : List Byte} {i : Instr} {s : State}
    (hd : Sys2Proof.decode (.frame .request bytes) = .ok i) (h : offersFrame s bytes = true) :
    runFrame .request bytes s = acceptBytes bytes.length s := by
  rw [runFrame, hd]
  obtain ⟨slave, start, count, check, rfl, rfl⟩ := eq_requestFrame_of_decodeRequest hd
  simp only [exec, execReqReadHolding, h, if_true]

/-- Settles O29: the first byte, or the first TxAccept, is the event of the step, and the others are the script. -/
theorem frameIsItsBytesInOrder : Obligations.FrameIsItsBytesInOrder := by
  unfold Obligations.FrameIsItsBytesInOrder
  refine ⟨fun s rest kind bytes hNot => ?_, fun s rest bytes i hd hOffers => ?_⟩
  · cases bytes with
    | nil => rfl
    | cons b bs =>
      have hNot' : kind = .request → offersFrame (withInput rest s) (b :: bs) = false := fun hk =>
        (offersFrame_withInput rest s (b :: bs)).trans (hNot hk)
      exact runFrame_of_not_offered hNot'
  · have hOffers' : offersFrame (withInput rest s) bytes = true := (offersFrame_withInput rest s bytes).trans hOffers
    obtain ⟨slave, start, count, check, -, rfl⟩ := eq_requestFrame_of_decodeRequest hd
    exact runFrame_of_offered hd hOffers'

end Sys2Proof.Machine
end

section
/-! The host window: where each register stands, what a read answers and what a write stores, register by register
(10_state.md R23 to R57; 20_memory.md R60 to R67). -/

namespace Sys2Proof.Machine

/-- Settles O36: admission as the mapped ranges, and each register at its own offset. -/
theorem mappedOffsets : Obligations.MappedOffsets := by
  unfold Obligations.MappedOffsets
  refine ⟨fun offset => ?_, admitted_regOffset⟩
  rw [admitted_isSome_iff]
  exact and_iff_right rfl

/-! ### Reads -/

/-- A field narrower than a word is the same number zero-extended (R64). -/
theorem toNat_zeroExtend_word {w : Nat} (hw : w ≤ 32) (x : BitVec w) : (x.zeroExtend 32).toNat = x.toNat :=
  BitVec.toNat_setWidth_of_le hw

/-- A byte behind other bits is the low byte of the number. -/
theorem toNat_append_byte {w : Nat} (x : BitVec w) (b : Byte) : (x ++ b).toNat = x.toNat * 256 + b.toNat := by
  rw [BitVec.toNat_append, ← Nat.shiftLeft_add_eq_or_of_lt b.isLt, Nat.shiftLeft_eq]

/-- ERROR as a number (R34). -/
theorem errorWord_toNat (s : State) : (errorWord s).toNat = s.excCode.toNat * 256 + s.errCode.toNat := by
  rw [errorWord, toNat_append_byte, toNat_append_byte, BitVec.toNat_ofNat]
  simp

/-- Settles O38: the answer is the register's read value. -/
theorem hostReadAnswers : Obligations.HostReadAnswers := by
  unfold Obligations.HostReadAnswers
  intro s r
  obtain ⟨hLineCfg, -⟩ := lineConfigurationIsFixed
  refine ⟨readReg s r, hostRead_regOffset s r, ?_, ?_, ?_, ?_, ?_, ?_, ?_, ?_, ?_, ?_, ?_, ?_, ?_, ?_, ?_, ?_, ?_, ?_⟩
  · rintro rfl; rfl
  · rintro rfl; rfl
  · rintro rfl; exact errorWord_toNat s
  · rintro rfl; exact toNat_zeroExtend_word (by decide) s.slaveAddr
  · rintro rfl; exact toNat_zeroExtend_word (by decide) s.startReg
  · rintro rfl; exact toNat_zeroExtend_word (by decide) s.regCount
  · rintro rfl; exact hLineCfg
  · rintro rfl; rfl
  · rintro rfl; rfl
  · rintro rfl; exact toNat_zeroExtend_word (by decide) s.txLen
  · rintro rfl; exact toNat_zeroExtend_word (by decide) s.rxLen
  · rintro rfl; exact toNat_zeroExtend_word (by decide) s.crcResult
  · rintro rfl; exact toNat_zeroExtend_word (by decide) s.respHdr
  · rintro rfl; exact toNat_zeroExtend_word (by decide) s.regN
  · rintro rfl; rfl
  · rintro i rfl b hb
    rw [← peek_of_read hb]
    exact toNat_zeroExtend_word (by decide) (txBuf s i.val)
  · rintro i rfl b hb
    rw [← peek_of_read hb]
    exact toNat_zeroExtend_word (by decide) (rxBuf s i.val)
  · rintro i rfl
    exact toNat_zeroExtend_word (by decide) (regVal s i.val)

/-- A host read as an event: the answer is drawn with the event's own draw (R51, log 6). -/
theorem handleEvent_read (s : State) (r : Reg) :
    handleEvent (.hostRead (BitVec.ofNat 12 (regOffset r)) 4#3) s
      = .next { nextDraw s with bus := ⟨false, readReg (nextDraw s) r⟩ } :=
  congrArg Host.Outcome.next (hostRead_regOffset (nextDraw s) r)

/-- Settles O39: a byte nothing has written is read as the draw of the event. -/
theorem unwrittenEntryReadsAsDraw : Obligations.UnwrittenEntryReadsAsDraw := by
  unfold Obligations.UnwrittenEntryReadsAsDraw
  intro s draw read
  have hDraw : ∀ a, s.mem.read a = none → peek (nextDraw s) a = draw a :=
    fun a ha => peek_of_unwritten (s := nextDraw s) ha
  refine ⟨fun i hi => ?_, fun i hLow hHigh => ?_, fun i hi => ?_⟩
  · rw [show read (.txBuf i) = _ from handleEvent_read s (.txBuf i), readReg, txBuf, hDraw _ hi]
    rfl
  · rw [show read (.regVal i) = _ from handleEvent_read s (.regVal i), readReg, regVal, hDraw _ hLow, hDraw _ hHigh]
    rfl
  · rw [show read (.rxBuf i) = _ from handleEvent_read s (.rxBuf i), readReg, rxBuf, hDraw _ hi]
    rfl

/-! ### Writes -/

/-- Settles O41: none of these registers is CMD, and each is read-only. -/
theorem readOnlyWritesAreIgnored : Obligations.ReadOnlyWritesAreIgnored := by
  unfold Obligations.ReadOnlyWritesAreIgnored
  intro s r v hr
  have hReadOnly : r ≠ .cmd ∧ hostReadOnly r = true := by
    rcases hr with rfl | rfl | rfl | rfl | rfl | rfl | rfl | rfl | ⟨i, rfl⟩ <;> exact ⟨Reg.noConfusion, rfl⟩
  exact ⟨_, hostWrite_ignored hReadOnly.1 (.inr hReadOnly.2) v⟩

/-- An unlocked write goes through to the register, with no error response (R56, R64). -/
theorem hostWrite_stores {s : State} {r : Reg} (hr : r ≠ .cmd) (hLock : writeLocked s r = false) (v : Word) :
    hostWrite (BitVec.ofNat 12 (regOffset r)) 4#3 v s = .next (storeReg (answerWrite false s) v r) := by
  have hUnlocked : ¬ writeLocked (answerWrite false s) r = true := Bool.eq_false_iff.1 hLock
  rw [hostWrite_of_admitted (admitted_regOffset r) hr, writeReg, if_neg hUnlocked]

/-- The low bits of a word that fits them are the word (R64). -/
theorem extractLsb'_low_eq_ofNat (n : Nat) (v : Word) : v.extractLsb' 0 n = BitVec.ofNat n v.toNat := by
  apply BitVec.eq_of_toNat_eq
  rw [BitVec.extractLsb'_toNat, Nat.shiftRight_zero, BitVec.toNat_ofNat]

/-- Settles O42: each unlocked write by what its register stores. -/
theorem hostWriteStores : Obligations.HostWriteStores := by
  unfold Obligations.HostWriteStores
  intro s v u write
  have unlocked : ∀ r, r ≠ .cmd → writeLocked s r = false → write r = .next (storeReg u v r) :=
    fun r hr hLock => hostWrite_stores hr hLock v
  have idle : s.phase = .idle → busy s = false := busy_eq_false.2
  refine ⟨unlocked .status Reg.noConfusion rfl, fun hp ho => ?_, fun hp => unlocked .startReg Reg.noConfusion (idle hp),
    fun hp => unlocked .regCount Reg.noConfusion (idle hp), fun hp hv => ?_, fun hp hv => ?_, fun hp hv => ?_,
    fun hp hv => ?_, fun i hp => ⟨_, unlocked (.rxBuf i) Reg.noConfusion (idle hp), rfl, ?_, fun a ha => ?_⟩,
    fun i hp => ⟨_, unlocked (.regVal i) Reg.noConfusion (idle hp), rfl, ?_, ?_, fun a hLow hHigh => ?_⟩⟩
  · exact unlocked .slaveAddr Reg.noConfusion (by rw [writeLocked, idle hp, ho]; rfl)
  · rw [unlocked .rxLen Reg.noConfusion (idle hp), storeReg, if_pos hv, extractLsb'_low_eq_ofNat]
  · rw [unlocked .rxLen Reg.noConfusion (idle hp), storeReg, if_neg (Nat.not_le.2 hv)]
  · rw [unlocked .regN Reg.noConfusion (idle hp), storeReg, if_pos hv, extractLsb'_low_eq_ofNat]
  · rw [unlocked .regN Reg.noConfusion (idle hp), storeReg, if_neg (Nat.not_le.2 hv)]
  · exact Memory.read_write_same _ _ _
  · exact Memory.read_write_other _ _ ha
  · refine (writeRegVal_read _ _ _ _).trans ((if_pos rfl).trans (congrArg some ?_))
    exact BitVec.extractLsb'_extractLsb'_of_le (by decide)
  · refine (writeRegVal_read _ _ _ _).trans ((if_neg (Nat.ne_of_lt (Nat.lt_succ_self _))).trans
      ((if_pos rfl).trans (congrArg some ?_)))
    exact BitVec.extractLsb'_extractLsb'_of_le (by decide)
  · exact (writeRegVal_read _ _ _ _).trans ((if_neg hHigh).trans (if_neg hLow))

end Sys2Proof.Machine
end

section
/-! Which event a step handles: the items of the script one by one, the events of one clock in their order, and a Reset
with the bytes that come after it (00_scope.md R13; 30_encoding.md R90, R104, R105; 60_exceptions.md R262;
70_reset_and_hazards.md R280, R281). -/

namespace Sys2Proof.Machine

open Safety

/-! ### A step on an instruction -/

/-- Settles O1: the write is an event, whose word runs what it decodes to. -/
theorem stepRunsDecodedCommand : Obligations.StepRunsDecodedCommand := by
  unfold Obligations.StepRunsDecodedCommand
  intro s rest w i hInput hDecode
  rw [step_event hInput, handleEvent_cmd, ← exec_eq_runCommand hDecode]
  rfl

/-- A step on an event that stands first in the script. -/
theorem step_withInput_event (e : Event) (items : List Input) (s : State) :
    step (withInput (.event e :: items) s) = handleEvent e (withInput items s) :=
  step_event rfl

/-- No frame is without bytes (R95 to R97). -/
theorem decode_frame_nil (kind : FrameKind) (i : Instr) : Sys2Proof.decode (.frame kind []) ≠ .ok i := by
  cases kind <;> rintro ⟨⟩

/-- A step on a frame with bytes runs the frame (log 2). -/
theorem step_frame {s : State} {rest : List Input} {kind : FrameKind} {b : Byte} {bs : List Byte}
    (h : s.input = .frame kind (b :: bs) :: rest) : step s = runFrame kind (b :: bs) { s with input := rest } := by
  rw [step, fetchAndHandle, h, runScript]

/-- Settles O2. -/
theorem stepRunsDecodedFrame : Obligations.StepRunsDecodedFrame := by
  unfold Obligations.StepRunsDecodedFrame
  intro s rest kind bytes i hInput hDecode
  cases bytes with
  | nil => exact absurd hDecode (decode_frame_nil kind i)
  | cons b bs => rw [step_frame hInput, runFrame, hDecode]

/-! ### Every step handles one event -/

/-- A frame with bytes is handled as one event: its first byte, or the first TxAccept of the request on offer. -/
theorem runFrame_handles (kind : FrameKind) (b : Byte) (bs : List Byte) (s : State) :
    ∃ e items, runFrame kind (b :: bs) s = handleEvent e (withInput items s) := by
  by_cases hReceived : kind = .request → offersFrame s (b :: bs) = false
  · exact ⟨.rxByte b false, _, runFrame_of_not_offered hReceived⟩
  · obtain ⟨rfl, hOffers⟩ := Classical.not_imp.1 hReceived
    cases hd : Sys2Proof.decode (.frame .request (b :: bs)) with
    | error err =>
      refine ⟨.rxByte b false, bs.map rxByteItem ++ s.input, ?_⟩
      rw [runFrame, hd]
      rfl
    | ok i => exact ⟨.txAccept, _, runFrame_of_offered hd (Bool.eq_true_of_not_eq_false hOffers)⟩

/-- A script is one event, on the state with the rest of the script and the level announced before it, or it holds no
event (R13, log 5). -/
theorem runScript_handles (items : List Input) (s : State) : ∃ rest level,
    (∃ e, runScript items s = handleEvent e (withScript rest level s))
      ∨ (rest = [] ∧ runScript items s = .next (withScript rest level s)) := by
  induction items generalizing s with
  | nil => exact ⟨[], s.phyLevel, .inr ⟨rfl, rfl⟩⟩
  | cons item rest ih =>
    cases item with
    | event e => exact ⟨rest, s.phyLevel, .inl ⟨e, rfl⟩⟩
    | clock c =>
      cases hc : clockEvents c with
      | nil =>
        simp only [runScript, hc]
        exact ih { s with input := rest }
      | cons e es =>
        refine ⟨es.map .event ++ rest, s.phyLevel, .inl ⟨e, ?_⟩⟩
        simp only [runScript, hc, withScript]
    | phyPresent level =>
      simp only [runScript]
      exact ih { s with input := rest, phyLevel := some level }
    | frame kind bytes =>
      cases bytes with
      | nil =>
        simp only [runScript]
        exact ih { s with input := rest }
      | cons b bs =>
        obtain ⟨e, queue, h⟩ := runFrame_handles kind b bs { s with input := rest }
        exact ⟨queue, s.phyLevel, .inl ⟨e, h⟩⟩

/-- With no item left nothing happens (log 1). -/
theorem step_of_no_input {s : State} (h : s.input = []) : step s = .next s := by
  rw [step, fetchAndHandle, h, runScript, ← h]

/-- An OPEN while IDLE uses the announced level up, whatever it answers (log 5). -/
theorem exec_openPort_phyLevel {s t : State} (hp : s.phase = .idle) (h : exec .openPort s = .next t) :
    t.phyLevel = none := by
  rw [exec_openPort_idle hp] at h
  rcases openBody_cases (phyPresentNow s) (samplePhy (accept 1#4 s)) with
    ⟨-, e⟩ | ⟨-, -, e⟩ | ⟨-, -, -, e⟩ | ⟨-, -, -, e⟩ <;> rw [e] at h <;> cases h <;> rfl

/-- Settles O3: the script's items one by one, then each event's own operation. -/
theorem eventsRunTheirRules : Obligations.EventsRunTheirRules := by
  unfold Obligations.EventsRunTheirRules
  refine ⟨fun s => runScript_handles s.input s, fun s rest e h => step_event h, fun s rest level h => ?_,
    fun s h => step_of_no_input h, fun s => ⟨fun _ _ _ => rfl, fun _ _ => rfl, rfl, rfl, fun _ _ => rfl, rfl,
      fun w => hostWrite_cmd w s, fun t hp h => exec_openPort_phyLevel hp h⟩⟩
  rw [step, fetchAndHandle, h, runScript]
  rfl

/-! ### Reset -/

/-- Settles O47. -/
theorem resetEventCompletes : Obligations.ResetEventCompletes := by
  unfold Obligations.ResetEventCompletes
  exact fun s => handleEvent_reset s

/-- Settles O48: the Reset leaves the block IDLE, and outside the RX phase the bytes are dropped. -/
theorem resetAbandonsExchange : Obligations.ResetAbandonsExchange := by
  unfold Obligations.ResetAbandonsExchange
  intro s late rest hInput
  have hReset : step s = .next (withInput (late.map rxByteItem ++ rest) (resetBlock (nextDraw s))) := step_event hInput
  refine ⟨_, (run_next late.length hReset).trans ((run_rxBytes late (resetBlock (nextDraw s)) rest).trans
    (rxBytes_dropped late Phase.noConfusion)), rfl, rfl, rfl, rfl, rfl, rfl, Memory.read_nil⟩

/-! ### The events of one clock -/

/-- A clock is its events, each an item of its own (R262, log 4). -/
theorem step_clock {s : State} {c : Clock} {rest : List Input} (h : s.input = .clock c :: rest) :
    step s = step { s with input := (clockEvents c).map .event ++ rest } := by
  rw [step, fetchAndHandle, h, step, fetchAndHandle, runScript]
  cases clockEvents c <;> rfl

/-- A run from a clock is the run from its events. -/
theorem run_clock (k : Nat) {s : State} {c : Clock} {rest : List Input} (h : s.input = .clock c :: rest) :
    Host.Core.run Sys2Proof.core (k + 1) s
      = Host.Core.run Sys2Proof.core (k + 1) (withInput ((clockEvents c).map .event ++ rest) s) := by
  rw [run_succ, run_succ, step_clock h]
  rfl

/-- The four parts of a clock's events, each item by item. -/
theorem append_congr₄ {A A' B B' C C' D D' : List Input} (hA : A = A') (hB : B = B') (hC : C = C') (hD : D = D')
    (rest : List Input) : A ++ B ++ C ++ D ++ rest = A' ++ B' ++ C' ++ D' ++ rest := by
  rw [hA, hB, hC, hD]

/-- A byte in the RX phase answers a next state when RXBUF has room for it: on the end of a frame the command ends, with
no TIMEOUT, and TIMER, LAST_OP and CMD_REJ as before (R168, R175, R231). -/
theorem rxByte_completes {s : State} {b : Byte} (hp : s.phase = .rx) (hRoom : s.rxLen.toNat < rxBufSize)
    (hOp : s.lastOp = 4#4 ∨ s.lastOp = 8#4) (h0 : s.errCode = 0#8)
    (hDone : frameComplete (storeRxByte b s) (s.rxLen.toNat + 1) = true) :
    ∃ t, rxByte b false s = .next t ∧ sameOutsideReception s t ∧ t.phase = .idle ∧ t.done = true
      ∧ t.errCode ≠ 0x02#8 ∧ t.rxLen.toNat = s.rxLen.toNat + 1
      ∧ (s.lastOp = 4#4 → t.err = false ∧ t.errCode = 0#8) := by
  have hLen := storeRxByte_len b hRoom
  rw [rxByte_of_room hp hRoom, if_pos hDone]
  rcases hOp with hOp | hOp
  · rw [frameDone_of_not_xfer (s := storeRxByte b s) fun h => absurd (hOp.symm.trans h) (by decide)]
    refine ⟨_, rfl, .refl s, rfl, rfl, ?_, hLen, fun _ => ⟨?_, h0⟩⟩
    · exact fun h => absurd (h0.symm.trans h) (by decide)
    · exact decide_eq_false (not_not_intro h0)
  · rw [frameDone_of_xfer (s := storeRxByte b s) hOp]
    obtain ⟨crc, hEnds⟩ := parseBody_ends (s := storeRxByte b s) (hLen ▸ hRoom)
    obtain ⟨t, ht⟩ : ∃ t, parseBody (storeRxByte b s) = .next t := by
      rcases hEnds with ⟨e, h⟩ | ⟨-, h⟩ <;> exact ⟨_, h⟩
    obtain ⟨hSame, hIdle, hDone', hRxLen, -⟩ := parseBody_frame ht
    refine ⟨t, ht, (show sameOutsideReception s (storeRxByte b s) from .refl s).trans hSame, hIdle, hDone', ?_,
      (congrArg BitVec.toNat hRxLen).trans hLen, fun h => absurd (hOp.symm.trans h) (by decide)⟩
    intro hTwo
    rcases parseBody_code ht with hNone | hFive
    · exact absurd ((hNone.trans h0).symm.trans hTwo) (by decide)
    · rw [hTwo] at hFive
      exact absurd hFive (by decide)

/-- A command's rule leaves LAST_OP, recorded when its word was accepted (R32, R33). -/
theorem CommandEnd.lastOp {w : Word} {s t : State} (h : CommandEnd w s t) : t.lastOp = s.lastOp := by
  cases h with
  | parsed _ h =>
    obtain ⟨⟨-, -, -, hOp, -⟩, -⟩ := parseBody_frame h
    exact hOp
  | _ => rfl

/-- Any word written to CMD while IDLE is accepted: LAST_OP records it and CMD_REJ stays (R32, R33, R92). -/
theorem runCommand_accepts {s : State} (hp : s.phase = .idle) (hLen : s.rxLen.toNat ≤ rxBufSize) (w : Word) :
    ∃ t, runCommand w s = .next t ∧ t.lastOp = w.extractLsb' 0 4 ∧ t.cmdRej = s.cmdRej := by
  obtain ⟨body, hr, hrun⟩ := exists_commandRule w
  obtain ⟨t, ht⟩ : ∃ t, body (accept (opField w) s) = .next t := by
    rcases hr.answers (s := accept (opField w) s) hLen with ⟨u, h⟩ | ⟨-, t, h⟩ <;> exact ⟨_, h⟩
  rw [hrun, issue_idle hp]
  exact ⟨t, ht, (hr.ends ht).lastOp, (hr.keepsSettings ht).cmdRej⟩

/-- So is any word of a CMD write as an event. -/
theorem handleEvent_cmd_accepts {s : State} (hp : s.phase = .idle) (hLen : s.rxLen.toNat ≤ rxBufSize) (w : Word) :
    ∃ t, handleEvent (.hostWrite 0x000#12 4#3 w) s = .next t ∧ t.lastOp = w.extractLsb' 0 4 ∧ t.cmdRej = s.cmdRej := by
  rw [handleEvent_cmd]
  exact runCommand_accepts (s := answerWrite false (nextDraw s)) hp hLen w

/-- The first two events of a clock with the byte that completes the frame and a Tick: the byte ends the exchange, and
the Tick finds the block IDLE (R173, R262). -/
theorem run_lastByte_tick {s v : State} {b : Byte} (items : List Input) (hByte : rxByte b false (nextDraw s) = .next v)
    (hIdle : v.phase = .idle) (k : Nat) :
    Host.Core.run Sys2Proof.core (k + 2) (withInput (rxByteItem b :: .event .tick :: items) s)
      = Host.Core.run Sys2Proof.core k (nextDraw (withInput items v)) := by
  have hFirst : step (withInput (rxByteItem b :: .event .tick :: items) s)
      = .next (withInput (.event .tick :: items) v) := by
    rw [rxByteItem, step_withInput_event]
    change rxByte b false (withInput (.event .tick :: items) (nextDraw s)) = _
    rw [rxByte_withInput, hByte]
    rfl
  have hSecond : step (withInput (.event .tick :: items) v) = .next (nextDraw (withInput items v)) :=
    (step_withInput_event .tick items v).trans (tick_of_idle (s := nextDraw (withInput items v)) hIdle)
  rw [run_next (k + 1) hFirst, run_next k hSecond]

/-- A run of one step. -/
theorem run_one {s t : State} (h : step s = .next t) : Host.Core.run Sys2Proof.core 1 s = .next t :=
  run_next 0 h

/-- A clock with the byte that completes the frame and a Tick: two steps end the exchange, and what is left of the
clock is its host access (R262). -/
theorem run_lastByte_clock {s v : State} {b : Byte} (rest : List Input) (hByte : rxByte b false (nextDraw s) = .next v)
    (hIdle : v.phase = .idle) (host : Option HostAccess) (k : Nat) :
    Host.Core.run Sys2Proof.core (k + 2)
        { s with input := .clock ⟨false, none, some (b, false), true, host⟩ :: rest }
      = Host.Core.run Sys2Proof.core k
          (nextDraw (withInput ((host.map hostAccessEvent).toList.map .event ++ rest) v)) :=
  (run_clock (k + 1) rfl).trans (run_lastByte_tick _ hByte hIdle k)

/-- A byte in the clock of the last TxAccept is received (R262). -/
theorem run_lastAccept_clock {s : State} {b : Byte} {rest : List Input} (hInv : BlockInv s) (hp : s.phase = .tx)
    (hLast : s.txIdx + 1 = s.txLen.toNat)
    (hInput : s.input = .clock ⟨false, some .accept, some (b, false), false, none⟩ :: rest) :
    Host.Core.run Sys2Proof.core 2 s = .next (storeRxByte b (nextDraw (sendByte (nextDraw (withInput rest s))))) := by
  have hSend : step (withInput (.event .txAccept :: rxByteItem b :: rest) s)
      = .next (sendByte (nextDraw (withInput (rxByteItem b :: rest) s))) := by
    rw [step_withInput_event]
    exact txAccept_of_room (s := nextDraw (withInput (rxByteItem b :: rest) s)) hp (hInv.txPhase hp)
  have hReceiving : (sendByte (nextDraw (withInput rest s))).phase = .rx := if_pos hLast
  have hNone : (sendByte (nextDraw (withInput rest s))).rxLen = 0#9 := hInv.txNothingReceived hp
  have hReceive : step (sendByte (nextDraw (withInput (rxByteItem b :: rest) s)))
      = .next (storeRxByte b (nextDraw (sendByte (nextDraw (withInput rest s))))) :=
    (step_withInput_event (.rxByte b false) rest (sendByte (nextDraw (withInput rest s)))).trans
      (rxByte_first (s := nextDraw (sendByte (nextDraw (withInput rest s)))) hReceiving hNone b)
  exact (run_clock 1 hInput).trans ((run_next 1 hSend).trans (run_one hReceive))

/-- Settles O49: a Reset is alone in its clock, any other clock is its events in order, and from that order the byte
with the last TxAccept and the byte that beats the timeout. -/
theorem sameClockOrder : Obligations.SameClockOrder := by
  unfold Obligations.SameClockOrder
  refine ⟨fun c s rest hReset hInput => ?_, fun tx rx ticks host s rest hInput => ?_,
    fun s b rest hInv hp hLast hInput => ?_, fun s b rest hp hOp h0 hRoom _ hDone => ?_⟩
  · rw [step_clock hInput, clockEvents, hReset, if_pos rfl]
    exact step_event rfl
  · rw [step_clock hInput]
    refine congrArg (fun items => step { s with input := items }) ?_
    simp only [clockEvents, Bool.false_eq_true, if_false, List.map_append]
    refine append_congr₄ ?_ ?_ ?_ ?_ rest
    · rcases tx with _ | _ | _ <;> rfl
    · cases rx <;> rfl
    · cases ticks <;> rfl
    · rcases host with _ | _ | _ <;> rfl
  · have hNone : (nextDraw (sendByte (nextDraw (withInput rest s)))).rxLen = 0#9 := hInv.txNothingReceived hp
    refine ⟨_, run_lastAccept_clock hInv hp hLast hInput, rfl, if_pos hLast, ?_, ?_⟩
    · rw [storeRxByte_rxLen, hNone]
      rfl
    · rw [storeRxByte_mem, hNone]
      exact Memory.read_write_same _ _ _
  · have hRoom' : (nextDraw s).rxLen.toNat < rxBufSize := hRoom
    have hDone' : frameComplete (storeRxByte b (nextDraw s)) ((nextDraw s).rxLen.toNat + 1) = true := hDone
    obtain ⟨v, hByte, ⟨-, -, hRej, hOpV, -, -, -, -, hTimer, -⟩, hIdle, hEnded, hCode, hLen, hExchange⟩ :=
      rxByte_completes (s := nextDraw s) hp hRoom' hOp h0 hDone'
    have hRun := run_lastByte_clock rest hByte hIdle
    refine ⟨nextDraw (withInput rest v), hRun none 0, rfl, hIdle, hEnded, hCode, hTimer, hLen, hOpV, hExchange,
      fun w => ?_, fun offset size => ?_⟩
    · obtain ⟨u, hu, hOpU, hRejU⟩ := handleEvent_cmd_accepts (s := withInput rest (nextDraw v)) hIdle
        (hLen.trans_le hRoom) w
      exact ⟨u, (hRun (some (.write 0x000#12 4#3 w)) 1).trans
        (run_one ((step_withInput_event _ rest (nextDraw v)).trans hu)), hOpU, hRejU.trans hRej⟩
    · exact (hRun (some (.read offset size)) 1).trans
        (run_one (step_withInput_event (.hostRead offset size) rest (nextDraw v)))

end Sys2Proof.Machine
end

section
/-! The value of a float pattern (42_register_decoder.md R211, R214). -/

namespace Sys2Proof.Machine

/-- A positive normal number: the formula's middle case without a sign (R211). -/
theorem floatValue_of_normal {w : Word} {e f : Nat} (hSign : w.getLsbD 31 = false) (he : (w.extractLsb' 23 8).toNat = e)
    (hf : (w.extractLsb' 0 23).toNat = f) (hNonzero : e ≠ 0) (hFinite : e ≤ 254) :
    floatValue w = .real (2 ^ e / 2 ^ 127 * (1 + (f : ℚ) / 2 ^ 23)) := by
  unfold floatValue
  rw [hSign, he, hf]
  dsimp only
  rw [if_neg hNonzero, if_pos hFinite, if_neg Bool.false_ne_true, one_mul]

/-- Settles O45: the exponent and the fraction of each pattern, and the formula on them. -/
theorem floatWorkedValues : Obligations.FloatWorkedValues := by
  unfold Obligations.FloatWorkedValues
  constructor
  · rw [floatValue_of_normal (e := 132) (f := 0x480000) rfl rfl rfl (by decide) (by decide)]
    norm_num
  · rw [floatValue_of_normal (e := 136) (f := 0x535333) rfl rfl rfl (by decide) (by decide)]
    norm_num

end Sys2Proof.Machine
end
